-- ==== Sys2Proof/Word.lean ====
section
/-! DEFINITION. The plain index and word types of the QT240 model: bytes of the link, and the four kinds of index the
manual's section 1.4 fixes (slot, entry, band, board), with those of the directory, attributes and palettes. -/

namespace Sys2Proof

/-- One byte of a link frame, or one character code of the Cell Store. -/
abbrev Byte := BitVec 8

/-- A slot indexes the Instrument Table: 0..511 (section 1.4). -/
abbrev Slot := Fin 512

/-- An entry indexes the Field Map: 0..255 (section 1.4). -/
abbrev EntryIx := Fin 256

/-- A band indexes the Band Table: 0..3 (section 1.4). -/
abbrev BandIx := Fin 4

/-- A board is a layout page of field entries: 0..15 (section 1.4). -/
abbrev BoardIx := Fin 16

/-- The index of a directory entry: 0..511 (R21). -/
abbrev DirIx := Fin 512

/-- A venue: 0..31 (R21). -/
abbrev Venue := Fin 32

/-- The feed's code for an instrument: any 32-bit value (R21). -/
abbrev Code := BitVec 32

/-- An attribute index: 0..15 (R118). -/
abbrev AttrIx := Fin 16

/-- A colour number: 0..15 (R118). -/
abbrev Colour := Fin 16

/-- A palette set: 0..3 (R115). -/
abbrev SetIx := Fin 4

end Sys2Proof
end

