-- ==== Sys2Proof/Syntax.lean ====
section
/-! DEFINITION. The commands of the QT240: one constructor per row of spec/opcode_table.json. A row is one whole step of
the part: an event on a pin or a line, an event of a block's own timebase, or the carrying out of one request. -/

namespace Sys2Proof

/-- The steps of the part, in the table's order. The step of a request (UNKNOWN_KIND to TAPESPEED, and the requests among
them) is the Message Interpreter's taking of the frame at the head of the Inbound Queue and its carrying out (R173): the
request's fields stand in that frame's payload, so the step has no operands of its own. RELEASE and STATUS have a count,
because R50 and R178 let other events fall inside them. -/
inductive Instr where
  /-- RESET_N goes low, power-up included (R179). -/
  | resetNAsserted
  /-- RESET_N goes high with the straps RATE1 and RATE0 at the given levels, true for high (R168, R180). -/
  | resetNReleased (rate1 rate0 : Bool)
  /-- The 10 ms of initialisation have passed (R180). -/
  | initialisationEnd
  /-- A character arrives on RXD: its 8 data bits, and whether its stop bit was sampled high (R168, R170). -/
  | rxdCharacter (byte : Byte) (stopHigh : Bool)
  /-- 2 ms have passed without a byte (R170). -/
  | frameGapTimeout
  /-- The CHECK byte of the record at the head of the Outbound Queue has been sent (R175). -/
  | recordSent
  /-- The queue arbiter admits the BAD_FRAME latch (R176). -/
  | badFrameAdmission
  /-- The queue arbiter admits the OVERRUN latch (R176). -/
  | overrunAdmission
  /-- The queue arbiter admits the FEED latch (R176). -/
  | feedNotice
  /-- The queue arbiter admits the oldest un-notified Miss List record (R34, R176). -/
  | missNotice
  /-- A frame whose KIND is no request's is taken (R173). -/
  | unknownKind
  | reset
  /-- STATUS: `reads` is how many of its eleven reads are made before another event of the part may fall (R178). -/
  | status (reads : Nat)
  | define
  | clear
  | halt
  | resume
  | setref
  | openDay
  | query
  | install
  | remove
  | dflush
  | dprobe
  | mpurge
  | tick
  /-- RELEASE: `entries` is how many staged entries are dealt with before another event of the part may fall (R50). -/
  | release (entries : Nat)
  | discard
  | heartbeat
  | watch
  /-- The Feed Watch's remaining time reaches zero (R56). -/
  | feedWatchExpiry
  /-- The Heat Scan's step interval expires (R105, R106). -/
  | heatScanStep
  | map
  | unmap
  | mflush
  | mprobe
  | mfind
  | settext
  | setattr
  | setpal
  | heatcfg
  | blink
  | band
  | showBand
  | paint
  | tapetext
  | tapespeed
  /-- The first line of vertical blanking (R153). -/
  | frameStart
  /-- The Painter's clear of one band (R128). -/
  | bandClear (band : BandIx)
  /-- The Painter's taking at the head of the Dirty List (R129). -/
  | taking
  /-- The Painter's third step, for one band (R132). -/
  | curtainRelease (band : BandIx)
  /-- The Raster's reading at the first active line (R147). -/
  | rasterReading
  deriving DecidableEq, Repr

end Sys2Proof
end

