-- ==== Sys2Proof/Decode.lean ====
section
/-! DEFINITION. The words of the commands: no row of spec/opcode_table.json gives its command any bits, so no word spells
a command. -/

namespace Sys2Proof

/-- The command that a word spells by the table's bits: none, since the table's rows give no bits. -/
def decodeTableWord (_nbits _w : Nat) : Option Instr := none

end Sys2Proof
end

