-- ==== Sys2Proof/Config.lean ====
section
/-! DEFINITION. What one QT240 fixes and the manual does not give (the glyph dot patterns, a free constant), and the
capacities and default settings the manual states as numbers. -/

namespace Sys2Proof.Config

/-- Free value: whether the character generator's glyph of a code has a foreground dot at a column 0..9 and a line 0..15.
R149 says the patterns are fixed and does not give them, so nothing here has a body. -/
opaque glyphPattern : Byte → Nat → Nat → Bool

/-- Frames the Inbound Queue holds (R171). -/
def inboundCapacity : Nat := 8

/-- Records the Outbound Queue holds (R175). -/
def outboundCapacity : Nat := 16

/-- Records the Miss List holds (R31). -/
def missCapacity : Nat := 8

/-- Entries the Staging List holds (R45). -/
def stagingCapacity : Nat := 32

/-- Items the Tape Queue holds (R155). -/
def tapeCapacity : Nat := 64

/-- Characters the Tape Ring holds (R160). -/
def ringCapacity : Nat := 128

/-- Characters the tape window takes (R162, R164). -/
def windowLength : Nat := 97

/-- The largest price (section 1.4, R1). -/
def maxPrice : Nat := 999999999

/-- The largest volume and the largest trade size (R1, R17). -/
def maxVolume : Nat := 4294967295

/-- The largest payload length of a frame (R169). -/
def maxLen : Nat := 248

/-- SYNC, the first byte of a frame (R169). -/
def sync : Byte := 0xA5

/-- Physical rows of the Cell Store (R134). -/
abbrev rows : Nat := 36

/-- Physical columns of the Cell Store (R134). -/
abbrev columns : Nat := 96

end Sys2Proof.Config
end

