-- ==== Sys2Proof/Machine/Table.lean ====
section
/-! DEFINITION. A table: a fixed number of like things (records, entries, bands, cells), held as a list of that length, with
the few operations the blocks use on theirs. Everything here is structural, so the kernel can evaluate it. -/

namespace Sys2Proof

/-- `n` things of one kind, indexed 0..n − 1. -/
structure Table (n : Nat) (α : Type) where
  list : List α
  length_eq : list.length = n
  deriving DecidableEq, Repr

namespace Table

variable {n : Nat} {α β : Type}

/-- The same thing at every index. -/
def replicate (n : Nat) (a : α) : Table n α := ⟨List.replicate n a, List.length_replicate⟩

/-- The thing at an index. -/
def get (t : Table n α) (i : Fin n) : α := t.list[i.val]'(by rw [t.length_eq]; exact i.isLt)

/-- The table with one index written. -/
def set (t : Table n α) (i : Fin n) (a : α) : Table n α :=
  ⟨t.list.set i.val a, by rw [List.length_set]; exact t.length_eq⟩

/-- The table with one index changed. -/
def modify (t : Table n α) (i : Fin n) (f : α → α) : Table n α := t.set i (f (t.get i))

/-- Every index changed alike. -/
def map (f : α → β) (t : Table n α) : Table n β := ⟨t.list.map f, by rw [List.length_map]; exact t.length_eq⟩

/-- The table of a function's values. -/
def ofFn (f : Fin n → α) : Table n α := ⟨(List.finRange n).map f, by simp⟩

/-- The indices whose things satisfy `p`, in ascending order. -/
def indices (t : Table n α) (p : α → Bool) : List (Fin n) :=
  ((t.list.zip (List.finRange n)).filter (fun x => p x.1)).map Prod.snd

/-- The lowest index whose thing satisfies `p`. -/
def lowest (t : Table n α) (p : α → Bool) : Option (Fin n) := (t.indices p).head?

/-- Whether some thing satisfies `p`. -/
def any (t : Table n α) (p : α → Bool) : Bool := t.list.any p

/-- How many things satisfy `p`. -/
def count (t : Table n α) (p : α → Bool) : Nat := t.list.countP p

end Table

end Sys2Proof
end

