-- ==== Sys2Proof/Machine/State.lean ====
section
/-! DEFINITION. The state of the QT240, block by block as section 1.3 divides it, as plain data; the state right after a
power-up reset; and the reasons a step could stop. -/

namespace Sys2Proof.Machine

open Sys2Proof

/-! ### The Instrument Table (Chapter 1) -/

/-- The state of a quote record (R3). -/
inductive RecState where
  | empty | active | halted
  deriving DecidableEq, Repr

/-- The notation of an instrument's prices: D0..D6, or one of the three fractional formats (R2). -/
inductive Format where
  | dec (places : Fin 7)
  | f32h | f32e | f8
  deriving DecidableEq, Repr

/-- The way the last price moved (R1). -/
inductive Direction where
  | up | down | none
  deriving DecidableEq, Repr

/-- One quote record (R1). A price is a count of the format's unit, and an absent field is `none`. -/
structure Quote where
  state : RecState
  symbol : List Byte
  format : Format
  last : Option Nat
  reference : Option Nat
  bid : Option Nat
  ask : Option Nat
  high : Option Nat
  low : Option Nat
  volume : Nat
  heat : Nat
  direction : Direction
  deriving DecidableEq, Repr

/-- A record after reset: EMPTY, no symbol, nothing present, volume 0, heat 0, direction NONE, format D0 (R5). -/
def Quote.empty : Quote :=
  ⟨.empty, [], .dec 0, none, none, none, none, none, none, 0, 0, .none⟩

/-! ### The Symbol Directory (Chapter 2) -/

/-- A valid directory entry (R21). A free entry has no contents and is `none` in the directory. -/
structure DirEntry where
  venue : Venue
  any : Bool
  code : Code
  slot : Slot
  deriving DecidableEq, Repr

/-- One record of the Miss List (R31). -/
structure Miss where
  venue : Venue
  code : Code
  notified : Bool
  deriving DecidableEq, Repr

/-- The Symbol Directory's state: the entries, the Miss List oldest first, and the overflow flag (R21, R31, R33). -/
structure Directory where
  entries : Table 512 (Option DirEntry)
  misses : List Miss
  overflow : Bool
  deriving DecidableEq, Repr

/-! ### Quote Intake (Chapter 3) -/

/-- The items a tick carries, each with its value; LAST with its price and size (R38, R45). -/
structure TickItems where
  last : Option (Nat × Nat)
  bid : Option Nat
  ask : Option Nat
  vol : Option Nat
  ref : Option Nat
  deriving DecidableEq, Repr

/-- One entry of the Staging List (R45). -/
structure Staged where
  slot : Slot
  tape : Bool
  items : TickItems
  deriving DecidableEq, Repr

/-- The Feed Watch (R52), periods and remaining time in units of 125 ms. No period is held in OFF, and the countdown runs
only in FRESH. -/
inductive FeedWatch where
  | off
  | fresh (period remaining : Nat)
  | stale (period : Nat)
  deriving DecidableEq, Repr

/-- Quote Intake's state: the Staging List, oldest first, and the Feed Watch. -/
structure Intake where
  staging : List Staged
  watch : FeedWatch
  deriving DecidableEq, Repr

/-! ### The Field Map (Chapter 5) -/

/-- The state of a field map entry (R82). -/
inductive FieldState where
  | free | live | erasing
  deriving DecidableEq, Repr

/-- What a field shows (R81). -/
inductive Item where
  | sym | last | net | pct | bid | ask | high | low | vol | text
  deriving DecidableEq, Repr

/-- Where a field is placed (R81). -/
inductive Placement where
  | board (b : BoardIx)
  | common
  deriving DecidableEq, Repr

/-- One field map entry (R81). The slot is absent for TEXT; `unpainted` holds one mark per band. -/
structure Field where
  state : FieldState
  placement : Placement
  slot : Option Slot
  item : Item
  row : Nat
  column : Nat
  width : Nat
  palette : SetIx
  steady : Bool
  text : List Byte
  dirty : Bool
  unpainted : Table 4 Bool
  deriving DecidableEq, Repr

/-- A FREE entry. R81 lets no request observe its contents, so a freed entry takes this one form. -/
def Field.free : Field :=
  ⟨.free, .board 0, none, .sym, 0, 0, 0, 0, false, [], false, Table.replicate 4 false⟩

/-! ### The Colour Unit (Chapter 6) -/

/-- One attribute (R118). -/
structure Attr where
  foreground : Colour
  background : Colour
  blink : Bool
  underline : Bool
  deriving DecidableEq, Repr

/-- The fourteen colour classes (R110). -/
inductive Class where
  | back | label | neutral | up1 | up2 | up3 | dn1 | dn2 | dn3 | pos | neg | unch | stale | halt
  deriving DecidableEq, Repr

/-- The Heat Scan (R105). `interval` is the time in microseconds its step interval was last loaded with, `none` while the
interval does not run (disabled, or before initialisation has ended). -/
structure HeatScan where
  position : Slot
  enabled : Bool
  periodCode : Fin 8
  limitCode : Fin 4
  interval : Option Nat
  deriving DecidableEq, Repr

/-- The Colour Unit's state: the Attribute Table, the palette sets (each from class number to attribute), the Heat Scan and
the flash heat (R104, R105, R115, R118). -/
structure ColourUnit where
  attrs : Table 16 Attr
  palettes : Table 4 (Table 14 AttrIx)
  scan : HeatScan
  flashHeat : Nat
  deriving DecidableEq, Repr

/-! ### The Painter (Chapter 7) -/

/-- Which portion of a glyph a cell draws (R134). -/
inductive Part where
  | whole | left | right | top | bottom | topLeft | topRight | bottomLeft | bottomRight
  deriving DecidableEq, Repr

/-- One cell of the Cell Store (R134). -/
structure Cell where
  code : Byte
  attr : AttrIx
  part : Part
  deriving DecidableEq, Repr

/-- The Cell Store: 36 rows of 96 cells (R134). -/
abbrev CellStore := Table 36 (Table 96 Cell)

/-- What the Painter still has to do with one band in the first or the third step of its work: it must act on it, it may
(a request that falls in the step can give it cause), or it has looked at it. -/
inductive Look where
  | owed | mayLook | looked
  deriving DecidableEq, Repr

/-- Where the Painter's frame-start work stands (R127): none under way, the band clears, the taking of fields with the
budget read and the fields counted (R129), or the curtain release. During the band clears, `passed` holds what the third step
looks at if the second has been made already, with an empty Dirty List (assumption log 10). -/
inductive PaintWork where
  | idle
  | clearing (looks : Table 4 Look) (passed : Option (Table 4 Look))
  | taking (budget counted : Nat)
  | releasing (looks : Table 4 Look)
  deriving DecidableEq, Repr

/-- The Painter's state: the Dirty List head first, the paint budget, the work under way, the Cell Store, and whether the
store still owes its reset fill (R121, R125, R127, R134). -/
structure Painter where
  dirty : List EntryIx
  budget : Nat
  work : PaintWork
  cells : CellStore
  fillOwed : Bool
  deriving DecidableEq, Repr

/-! ### The Band Table and the Raster (Chapter 8) -/

/-- What a band shows (R138). -/
inductive Shows where
  | nothing
  | board (b : BoardIx)
  | tape
  deriving DecidableEq, Repr

/-- Whether a band is drawn from its contents (R138). -/
inductive Curtain where
  | opened | curtained
  deriving DecidableEq, Repr

/-- One band record (R138). -/
structure Band where
  height : Nat
  top : Nat
  size : Fin 4
  background : AttrIx
  shows : Shows
  curtain : Curtain
  count : Nat
  clearPending : Bool
  deriving DecidableEq, Repr

/-- A band after reset: unused, showing NONE, OPEN (R138). -/
def Band.reset : Band := ⟨0, 0, 0, 0, .nothing, .opened, 0, false⟩

/-- What the Raster took at a first active line: the band records, and the tape window with the two attributes it is drawn
in (R147, R164). -/
structure Reading where
  bands : Table 4 Band
  window : List Byte
  offset : Nat
  late : Bool
  labelAttr : AttrIx
  staleAttr : AttrIx
  deriving DecidableEq, Repr

/-- The Raster's state: the blink phase (true for on), period and count (R151), the Attribute Table and phase taken at the
last frame start, and the reading of the frame being drawn, `none` for the initialisation picture (R147, R154). -/
structure Raster where
  blinkOn : Bool
  blinkPeriod : Nat
  blinkCount : Nat
  takenAttrs : Table 16 Attr
  takenBlink : Bool
  reading : Option Reading
  deriving DecidableEq, Repr

/-! ### The Tape Unit (Chapter 9) -/

/-- The Tape Unit's state (R155). -/
structure Tape where
  queue : List (List Byte)
  ring : List Byte
  offset : Nat
  baseSpeed : Nat
  late : Bool
  deriving DecidableEq, Repr

/-! ### The Link Interface and the Message Interpreter (Chapter 10) -/

/-- Whether the part is held by RESET_N low, initialising, or running (R179, R180). -/
inductive Phase where
  | held | initialising | running
  deriving DecidableEq, Repr

/-- The cause of the most recent reset (R178, R179). -/
inductive ResetCause where
  | pin | message
  deriving DecidableEq, Repr

/-- The levels of the straps RATE1 and RATE0 as last read, true for high (R168). -/
structure Straps where
  rate1 : Bool
  rate0 : Bool
  deriving DecidableEq, Repr

/-- The receiver: hunting, or gathering a frame of which the bytes after SYNC have arrived in this order (R170). -/
inductive Receiver where
  | hunting
  | gathering (got : List Byte)
  deriving DecidableEq, Repr

/-- A complete inbound frame: its KIND and its payload (R171). -/
structure LinkFrame where
  kind : Byte
  payload : List Byte
  deriving DecidableEq, Repr

/-- The reasons a REJECT carries (section 10.6). -/
inductive Reason where
  | badFrame | badLength | unknownKind | range | badState | noSlot | inUse
  | duplicate | conflict | full | overlap | stageFull | overrun
  deriving DecidableEq, Repr

/-- The eleven values of a STATUS reply, in the reply's order (R178). -/
structure StatusReply where
  cause : Nat
  feed : Nat
  staging : Nat
  misses : Nat
  overflow : Nat
  dirty : Nat
  tape : Nat
  late : Nat
  inbound : Nat
  budget : Nat
  flashHeat : Nat
  deriving DecidableEq, Repr

/-- The DENTRY reply (R29). -/
structure DentryReply where
  found : Bool
  index : Nat
  venue : Nat
  any : Bool
  code : Code
  slot : Nat
  deriving DecidableEq, Repr

/-- The FIELD reply (R94): `field` is the entry described, or what stands for one that is FREE or was not found. -/
structure FieldReply where
  found : Bool
  index : Nat
  state : Nat
  placement : Nat
  slot : Nat
  item : Nat
  row : Nat
  column : Nat
  width : Nat
  palette : Nat
  steady : Bool
  dirty : Bool
  unpainted : List Bool
  text : List Byte
  deriving DecidableEq, Repr

/-- One record of the Outbound Queue: a reply, a notice or a latched REJECT (R175, section 10.6). -/
inductive Record where
  | ack (kind : Byte) (value : Nat)
  | reject (kind : Byte) (reason : Reason)
  | status (reply : StatusReply)
  | quote (slot : Slot) (record : Quote)
  | dentry (reply : DentryReply)
  | field (reply : FieldReply)
  | resetDone (cause : ResetCause)
  | miss (venue : Venue) (code : Code)
  | feed (code : Nat)
  deriving DecidableEq, Repr

/-- The request the Message Interpreter is carrying out between two steps of the table: none, a RELEASE with the entries
dealt with and applied so far (R50), a STATUS with the reads made and the values read so far (R178), the reads being made in the
order of the reply's fields (assumption log 21), or a request whose work is complete and whose answer has still to be placed, since
an admission may come first (R177; assumption log 23). -/
inductive Carrying where
  | idle
  | release (dealt applied : Nat)
  | status (reads : Nat) (reply : StatusReply)
  | answering (answer : Record)
  deriving DecidableEq, Repr

/-- What a change has handed to the Field Map and the Field Map has still to carry out, so that a taking may fall between the two
(R60, R109, R117; assumption log 22): the lookups of a tick or of the Heat Scan for a slot's items (R98), or the sweep of a SETPAL
with the attribute that its ACK carries (R116). -/
inductive Marks where
  | lookups (slot : Slot) (items : List Item)
  | sweep (palette : SetIx) (attr : AttrIx)
  deriving DecidableEq, Repr

/-- The Link Interface's state: the phase of reset, its cause, the straps, the receiver, the two queues oldest first, and the
three notice latches (R168 to R180). -/
structure Link where
  phase : Phase
  cause : ResetCause
  straps : Straps
  receiver : Receiver
  inbound : List LinkFrame
  outbound : List Record
  badFrame : Option Byte
  overrun : Option Byte
  feedLatch : Bool
  deriving DecidableEq, Repr

/-! ### The whole part -/

/-- The state of the QT240, and the queue of the commands that wait for it. -/
structure State where
  pending : List Instr
  link : Link
  carrying : Carrying
  owed : Option Marks
  records : Table 512 Quote
  directory : Directory
  intake : Intake
  fields : Table 256 Field
  colour : ColourUnit
  painter : Painter
  bands : Table 4 Band
  raster : Raster
  tape : Tape
  deriving DecidableEq, Repr

/-- The reasons the part stops with a fault: there are none, since the manual gives every request an answer and every event
an effect. -/
inductive Fault where
  deriving DecidableEq, Repr

/-- The reasons a command is refused by the model. -/
inductive Refusal where
  /-- Raised by an arm of `exec` for a command that has no meaning yet (safe: the model stops). No arm raises it now. -/
  | notModelled (mnemonic : String)
  deriving DecidableEq, Repr

/-! ### Reset values -/

/-- The Attribute Table after reset (R119). -/
def attrsReset : Table 16 Attr :=
  ⟨[⟨0, 0, false, false⟩, ⟨15, 0, false, false⟩, ⟨7, 0, false, false⟩, ⟨2, 0, false, false⟩,
    ⟨10, 0, false, false⟩, ⟨0, 10, false, false⟩, ⟨4, 0, false, false⟩, ⟨12, 0, false, false⟩,
    ⟨0, 12, false, false⟩, ⟨10, 0, false, false⟩, ⟨12, 0, false, false⟩, ⟨14, 0, false, false⟩,
    ⟨8, 0, false, false⟩, ⟨0, 14, true, false⟩, ⟨7, 0, false, false⟩, ⟨7, 0, false, false⟩], rfl⟩

/-- A palette set after reset maps class i to attribute i (R115). -/
def paletteReset : Table 14 AttrIx := ⟨[0, 1, 2, 3, 4, 5, 6, 7, 8, 9, 10, 11, 12, 13], rfl⟩

/-- A cell after the reset fill, and a cell of a clear or an erase in background attribute `a` (R128, R131, R134). -/
def Cell.blank (a : AttrIx) : Cell := ⟨0x20, a, .whole⟩

/-- The machine right after the reset of power-up, RESET_N still low: every block at the reset values of its chapter. The
straps and the Cell Store have none (assumption log 3 and 4). -/
def State.reset : State where
  pending := []
  link := ⟨.held, .pin, ⟨false, false⟩, .hunting, [], [], none, none, false⟩
  carrying := .idle
  owed := none
  records := Table.replicate 512 Quote.empty
  directory := ⟨Table.replicate 512 none, [], false⟩
  intake := ⟨[], .off⟩
  fields := Table.replicate 256 Field.free
  colour := ⟨attrsReset, Table.replicate 4 paletteReset, ⟨0, true, 3, 3, none⟩, 15⟩
  painter := ⟨[], 32, .idle, Table.replicate 36 (Table.replicate 96 (Cell.blank 0)), true⟩
  bands := Table.replicate 4 Band.reset
  raster := ⟨true, 16, 0, attrsReset, true, none⟩
  tape := ⟨[], [], 0, 2, false⟩

end Sys2Proof.Machine
end

