-- ==== Sys2Proof/Machine/Operands.lean ====
section
/-! DEFINITION. The operands of the requests: the kind codes and the number codes of the message catalogue, the readers of a
payload's fields, the ranges, saturations and clamps, and the check of each request's length and ranges (the first two
steps of R7, R24, R39, R85), each giving the request's fields or the reason of its refusal. -/

namespace Sys2Proof.Machine

open Sys2Proof

/-! ### Kinds of the message catalogue (section 10.6) -/

namespace Kind

def reset : Byte := 0x01
def status : Byte := 0x02
def define : Byte := 0x08
def clear : Byte := 0x09
def halt : Byte := 0x0A
def resume : Byte := 0x0B
def setref : Byte := 0x0C
def openDay : Byte := 0x0D
def query : Byte := 0x0E
def install : Byte := 0x10
def remove : Byte := 0x11
def dflush : Byte := 0x12
def dprobe : Byte := 0x13
def mpurge : Byte := 0x14
def tick : Byte := 0x18
def release : Byte := 0x19
def discard : Byte := 0x1A
def heartbeat : Byte := 0x1B
def watch : Byte := 0x1C
def map : Byte := 0x20
def unmap : Byte := 0x21
def mflush : Byte := 0x22
def mprobe : Byte := 0x23
def mfind : Byte := 0x24
def settext : Byte := 0x25
def setattr : Byte := 0x28
def setpal : Byte := 0x29
def heatcfg : Byte := 0x2A
def blink : Byte := 0x2B
def band : Byte := 0x30
def showBand : Byte := 0x31
def paint : Byte := 0x32
def tapetext : Byte := 0x38
def tapespeed : Byte := 0x39

/-- The kinds the catalogue lists as requests (R173). -/
def requests : List Byte :=
  [reset, status, define, clear, halt, resume, setref, openDay, query, install, remove, dflush, dprobe, mpurge, tick,
   release, discard, heartbeat, watch, map, unmap, mflush, mprobe, mfind, settext, setattr, setpal, heatcfg, blink, band,
   showBand, paint, tapetext, tapespeed]

end Kind

/-! ### Number codes -/

/-- The code of a reason (section 10.6). -/
def Reason.code : Reason → Nat
  | .badFrame => 0x01 | .badLength => 0x02 | .unknownKind => 0x03 | .range => 0x04 | .badState => 0x05
  | .noSlot => 0x06 | .inUse => 0x07 | .duplicate => 0x08 | .conflict => 0x09 | .full => 0x0A
  | .overlap => 0x0B | .stageFull => 0x0C | .overrun => 0x0D

/-- The code of a format (R2). -/
def Format.code : Format → Nat
  | .dec n => n.val | .f32h => 8 | .f32e => 9 | .f8 => 10

/-- The format of a code; code 7 and any code above 10 have none (R2). -/
def Format.ofCode (n : Nat) : Option Format :=
  if h : n < 7 then some (.dec ⟨n, h⟩)
  else if n = 8 then some .f32h else if n = 9 then some .f32e else if n = 10 then some .f8 else none

/-- The code of a record state in a QUOTE (section 10.7). -/
def RecState.code : RecState → Nat
  | .empty => 0 | .active => 1 | .halted => 2

/-- The code of a direction in a QUOTE (section 10.7). -/
def Direction.code : Direction → Nat
  | .none => 0 | .up => 1 | .down => 2

/-- The feed state code (R52). -/
def FeedWatch.code : FeedWatch → Nat
  | .off => 0 | .fresh _ _ => 1 | .stale _ => 2

/-- The number of an item (R81). -/
def Item.code : Item → Nat
  | .sym => 0 | .last => 1 | .net => 2 | .pct => 3 | .bid => 4 | .ask => 5 | .high => 6 | .low => 7 | .vol => 8 | .text => 9

/-- The item of a number (R81). -/
def Item.ofCode : Nat → Option Item
  | 0 => some .sym | 1 => some .last | 2 => some .net | 3 => some .pct | 4 => some .bid
  | 5 => some .ask | 6 => some .high | 7 => some .low | 8 => some .vol | 9 => some .text | _ => none

/-- The number of a field state in a FIELD reply (R94). -/
def FieldState.code : FieldState → Nat
  | .free => 0 | .live => 1 | .erasing => 2

/-- The number of a placement: the board, or 10h for COMMON (R86). -/
def Placement.code : Placement → Nat
  | .board b => b.val | .common => 0x10

/-- The placement of a number (R86). -/
def Placement.ofCode (n : Nat) : Option Placement :=
  if h : n < 16 then some (.board ⟨n, h⟩) else if n = 0x10 then some .common else none

/-- The target of a SHOW: a board, 10h for NONE or 11h for TAPE (R142). -/
def Shows.ofCode (n : Nat) : Option Shows :=
  if h : n < 16 then some (.board ⟨n, h⟩) else if n = 0x10 then some .nothing else if n = 0x11 then some .tape else none

/-- The number of a colour class (R110). -/
def Class.index : Class → Fin 14
  | .back => 0 | .label => 1 | .neutral => 2 | .up1 => 3 | .up2 => 4 | .up3 => 5 | .dn1 => 6 | .dn2 => 7 | .dn3 => 8
  | .pos => 9 | .neg => 10 | .unch => 11 | .stale => 12 | .halt => 13

/-- The code of a reset cause (R178). -/
def ResetCause.code : ResetCause → Nat
  | .pin => 0 | .message => 1

/-! ### Fields of a payload -/

/-- Bytes as one number, most significant byte first (section 1.4). -/
def beNat (bs : List Byte) : Nat := bs.foldl (fun n b => n * 256 + b.toNat) 0

/-- A number as so many bytes, most significant byte first (section 1.4). -/
def beBytes : Nat → Nat → List Byte
  | 0, _ => []
  | k + 1, n => beBytes k (n / 256) ++ [BitVec.ofNat 8 n]

/-- The field of `size` bytes at an offset of a payload. -/
def fieldAt (p : List Byte) (offset size : Nat) : Nat := beNat ((p.drop offset).take size)

/-- A number that must lie in 0..n − 1 (a RANGE check). -/
def inRange (n m : Nat) : Option (Fin n) := if h : m < n then some ⟨m, h⟩ else none

/-- A field that must be 0 or 1. -/
def flagOf : Nat → Option Bool
  | 0 => some false | 1 => some true | _ => none

/-- The nearest value within lo..hi (section 1.7). -/
def clamp (lo hi n : Nat) : Nat := max lo (min n hi)

/-- A price above 999,999,999 is taken as 999,999,999 (R11, R40). -/
def saturatePrice (n : Nat) : Nat := min n Config.maxPrice

/-- Whether a byte lies in 20h..7Eh (section 1.4). -/
def printable (b : Byte) : Bool := decide (0x20 ≤ b.toNat ∧ b.toNat ≤ 0x7E)

/-- A byte outside 20h..7Eh is stored as 3Fh (R8, R86, R97, R158). -/
def sanitise (b : Byte) : Byte := if printable b then b else 0x3F

/-! ### The check of each request: length, then ranges -/

/-- A request with no fields: its payload length must be 0. -/
def noFields (p : List Byte) : Except Reason Unit := if p.length = 0 then .ok () else .error .badLength

/-- Refuse with RANGE where a field is out of range. -/
def ranged {α : Type} : Option α → Except Reason α
  | some a => .ok a
  | none => .error .range

/-- CLEAR, HALT, RESUME, QUERY: slot (2) (R9, R10, R13). -/
def slotOnly (p : List Byte) : Except Reason Slot :=
  if p.length ≠ 2 then .error .badLength else ranged (inRange 512 (fieldAt p 0 2))

/-- The fields of a DEFINE. -/
structure DefineReq where
  slot : Slot
  format : Format
  symbol : List Byte
  deriving DecidableEq, Repr

/-- DEFINE: slot (2), format code (1), symbol length (1), symbol (R8). -/
def parseDefine (p : List Byte) : Except Reason DefineReq :=
  if p.length < 4 ∨ p.length ≠ 4 + fieldAt p 3 1 then .error .badLength
  else
    match inRange 512 (fieldAt p 0 2), Format.ofCode (fieldAt p 2 1) with
    | some slot, some format =>
      if 1 ≤ fieldAt p 3 1 ∧ fieldAt p 3 1 ≤ 8 then .ok ⟨slot, format, (p.drop 4).map sanitise⟩ else .error .range
    | _, _ => .error .range

/-- SETREF: slot (2), present (1), price (4); the reference it sets, or none to remove it (R11). -/
def parseSetref (p : List Byte) : Except Reason (Slot × Option Nat) :=
  if p.length ≠ 7 then .error .badLength
  else
    match inRange 512 (fieldAt p 0 2), flagOf (fieldAt p 2 1) with
    | some slot, some true => .ok (slot, some (saturatePrice (fieldAt p 3 4)))
    | some slot, some false => .ok (slot, none)
    | _, _ => .error .range

/-- INSTALL: venue (1), any (1), code (4), slot (2) (R25). -/
def parseInstall (p : List Byte) : Except Reason DirEntry :=
  if p.length ≠ 8 then .error .badLength
  else
    match inRange 32 (fieldAt p 0 1), flagOf (fieldAt p 1 1), inRange 512 (fieldAt p 6 2) with
    | some venue, some any, some slot => .ok ⟨venue, any, BitVec.ofNat 32 (fieldAt p 2 4), slot⟩
    | _, _, _ => .error .range

/-- REMOVE: venue (1), any (1), code (4) (R27). -/
def parseRemove (p : List Byte) : Except Reason (Venue × Bool × Code) :=
  if p.length ≠ 6 then .error .badLength
  else
    match inRange 32 (fieldAt p 0 1), flagOf (fieldAt p 1 1) with
    | some venue, some any => .ok (venue, any, BitVec.ofNat 32 (fieldAt p 2 4))
    | _, _ => .error .range

/-- The group a DFLUSH frees (R28). -/
inductive DirGroup where
  | venue (v : Venue)
  | anyVenue
  | all
  deriving DecidableEq, Repr

/-- DFLUSH: selector (1), 0..31, 20h or FFh (R28). -/
def parseDflush (p : List Byte) : Except Reason DirGroup :=
  if p.length ≠ 1 then .error .badLength
  else
    match inRange 32 (fieldAt p 0 1) with
    | some v => .ok (.venue v)
    | none =>
      if fieldAt p 0 1 = 0x20 then .ok .anyVenue else if fieldAt p 0 1 = 0xFF then .ok .all else .error .range

/-- DPROBE: venue (1), code (4) (R29). -/
def parseDprobe (p : List Byte) : Except Reason (Venue × Code) :=
  if p.length ≠ 5 then .error .badLength
  else
    match inRange 32 (fieldAt p 0 1) with
    | some venue => .ok (venue, BitVec.ofNat 32 (fieldAt p 1 4))
    | none => .error .range

/-- A well-formed TICK: its values are saturated as Quote Intake takes them (R40). -/
structure TickReq where
  venue : Venue
  code : Code
  hold : Bool
  tape : Bool
  items : TickItems
  deriving DecidableEq, Repr

/-- Whether bit k of a byte's value is 1. -/
def bitAt (n k : Nat) : Bool := n.testBit k

/-- The bytes the values before item k of the mask take: 8 for LAST, 4 for each of the others (R38, section 10.7). -/
def valuesBefore (mask : Nat) (k : Nat) : Nat :=
  ((List.range k).map (fun i => if bitAt mask i then (if i = 0 then 8 else 4) else 0)).sum

/-- The length a TICK's payload must have (R38). -/
def tickLength (mask : Nat) : Nat := 7 + valuesBefore mask 5

/-- The value of item k, where the mask names it (section 10.7). -/
def tickValue (p : List Byte) (mask k : Nat) : Option Nat :=
  if bitAt mask k then some (fieldAt p (7 + valuesBefore mask k) 4) else none

/-- The items of a TICK, prices saturated (R38, R40; the mask's bits: section 10.7). -/
def tickItems (p : List Byte) (mask : Nat) : TickItems where
  last := (tickValue p mask 0).map (fun v => (saturatePrice v, fieldAt p 11 4))
  bid := (tickValue p mask 1).map saturatePrice
  ask := (tickValue p mask 2).map saturatePrice
  vol := tickValue p mask 3
  ref := (tickValue p mask 4).map saturatePrice

/-- TICK: venue (1), code (4), flags (1), mask (1), values: the two steps of R39. -/
def parseTick (p : List Byte) : Except Reason TickReq :=
  if p.length < 7 ∨ p.length ≠ tickLength (fieldAt p 6 1) then .error .badLength
  else
    match inRange 32 (fieldAt p 0 1) with
    | none => .error .range
    | some venue =>
      if fieldAt p 6 1 % 32 = 0 then .error .range
      else .ok ⟨venue, BitVec.ofNat 32 (fieldAt p 1 4), bitAt (fieldAt p 5 1) 0, bitAt (fieldAt p 5 1) 1,
        tickItems p (fieldAt p 6 1)⟩

/-- A request of one clamped field (1): WATCH, BLINK, PAINT, TAPESPEED (R54, R126, R152, R163). -/
def oneClamped (lo hi : Nat) (p : List Byte) : Except Reason Nat :=
  if p.length ≠ 1 then .error .badLength else .ok (clamp lo hi (fieldAt p 0 1))

/-- MAP: placement (1), slot (2), item (1), row (1), column (1), width (1), palette set (1), steady (1), text length (1),
text; the entry it places (R86, R88). -/
def parseMap (p : List Byte) : Except Reason Field :=
  if p.length < 10 ∨ p.length ≠ 10 + fieldAt p 9 1 then .error .badLength
  else
    match Placement.ofCode (fieldAt p 0 1), Item.ofCode (fieldAt p 3 1), inRange 4 (fieldAt p 7 1), flagOf (fieldAt p 8 1) with
    | some placement, some item, some palette, some steady =>
      if (item = .text ∨ fieldAt p 1 2 < 512) ∧ fieldAt p 4 1 ≤ 35 ∧ fieldAt p 5 1 ≤ 95
          ∧ 1 ≤ fieldAt p 6 1 ∧ fieldAt p 6 1 ≤ 16 ∧ fieldAt p 5 1 + fieldAt p 6 1 ≤ 96
          ∧ fieldAt p 9 1 ≤ (if item = .text then 16 else 0) then
        .ok ⟨.live, placement, if item = .text then none else inRange 512 (fieldAt p 1 2), item, fieldAt p 4 1,
          fieldAt p 5 1, fieldAt p 6 1, palette, steady, (p.drop 10).map sanitise, false, Table.replicate 4 false⟩
      else .error .range
    | _, _, _, _ => .error .range

/-- UNMAP, MPROBE: index (1), every value in range (R89, R95). -/
def indexOnly (p : List Byte) : Except Reason EntryIx :=
  if p.length ≠ 1 then .error .badLength else ranged (inRange 256 (fieldAt p 0 1))

/-- The group an MFLUSH frees (R91). -/
inductive FieldGroup where
  | board (b : BoardIx)
  | common
  | all
  deriving DecidableEq, Repr

/-- MFLUSH: selector (1), 0..15, 10h or FFh (R91). -/
def parseMflush (p : List Byte) : Except Reason FieldGroup :=
  if p.length ≠ 1 then .error .badLength
  else
    match inRange 16 (fieldAt p 0 1) with
    | some b => .ok (.board b)
    | none => if fieldAt p 0 1 = 0x10 then .ok .common else if fieldAt p 0 1 = 0xFF then .ok .all else .error .range

/-- MFIND: slot (2), item (1) 0..8, board (1) (R96). -/
def parseMfind (p : List Byte) : Except Reason (Slot × Item × BoardIx) :=
  if p.length ≠ 4 then .error .badLength
  else
    match inRange 512 (fieldAt p 0 2), Item.ofCode (fieldAt p 2 1), inRange 16 (fieldAt p 3 1) with
    | some slot, some item, some board => if item = .text then .error .range else .ok (slot, item, board)
    | _, _, _ => .error .range

/-- SETTEXT: index (1), text length (1), text (R97). -/
def parseSettext (p : List Byte) : Except Reason (EntryIx × List Byte) :=
  if p.length < 2 ∨ p.length ≠ 2 + fieldAt p 1 1 then .error .badLength
  else
    match inRange 256 (fieldAt p 0 1) with
    | some i => if fieldAt p 1 1 ≤ 16 then .ok (i, (p.drop 2).map sanitise) else .error .range
    | none => .error .range

/-- SETATTR: attribute, foreground, background, blink, underline (1 each) (R120). -/
def parseSetattr (p : List Byte) : Except Reason (AttrIx × Attr) :=
  if p.length ≠ 5 then .error .badLength
  else
    match inRange 16 (fieldAt p 0 1), inRange 16 (fieldAt p 1 1), inRange 16 (fieldAt p 2 1), flagOf (fieldAt p 3 1),
        flagOf (fieldAt p 4 1) with
    | some a, some fg, some bg, some blink, some underline => .ok (a, ⟨fg, bg, blink, underline⟩)
    | _, _, _, _, _ => .error .range

/-- SETPAL: palette set (1), class (1), attribute (1) (R116). -/
def parseSetpal (p : List Byte) : Except Reason (SetIx × Fin 14 × AttrIx) :=
  if p.length ≠ 3 then .error .badLength
  else
    match inRange 4 (fieldAt p 0 1), inRange 14 (fieldAt p 1 1), inRange 16 (fieldAt p 2 1) with
    | some set, some cls, some attr => .ok (set, cls, attr)
    | _, _, _ => .error .range

/-- The settings of a HEATCFG, the flash heat clamped into 1..15 (R107). -/
structure HeatReq where
  flashHeat : Nat
  enabled : Bool
  periodCode : Fin 8
  limitCode : Fin 4
  deriving DecidableEq, Repr

/-- HEATCFG: flash heat, enable, period code, limit code (1 each) (R107). -/
def parseHeatcfg (p : List Byte) : Except Reason HeatReq :=
  if p.length ≠ 4 then .error .badLength
  else
    match flagOf (fieldAt p 1 1), inRange 8 (fieldAt p 2 1), inRange 4 (fieldAt p 3 1) with
    | some enabled, some period, some limit => .ok ⟨clamp 1 15 (fieldAt p 0 1), enabled, period, limit⟩
    | _, _, _ => .error .range

/-- The fields of a BAND. -/
structure BandReq where
  band : BandIx
  top : Nat
  height : Nat
  size : Fin 4
  background : AttrIx
  deriving DecidableEq, Repr

/-- BAND: band, top, height, size, background (1 each): the length and the RANGE step of R140. -/
def parseBand (p : List Byte) : Except Reason BandReq :=
  if p.length ≠ 5 then .error .badLength
  else
    match inRange 4 (fieldAt p 0 1), inRange 4 (fieldAt p 3 1), inRange 16 (fieldAt p 4 1) with
    | some band, some size, some background =>
      if fieldAt p 1 1 ≤ 35 ∧ fieldAt p 2 1 ≤ 36 ∧ fieldAt p 1 1 + fieldAt p 2 1 ≤ 36 then
        .ok ⟨band, fieldAt p 1 1, fieldAt p 2 1, size, background⟩
      else .error .range
    | _, _, _ => .error .range

/-- SHOW: band (1), target (1) (R142). -/
def parseShow (p : List Byte) : Except Reason (BandIx × Shows) :=
  if p.length ≠ 2 then .error .badLength
  else
    match inRange 4 (fieldAt p 0 1), Shows.ofCode (fieldAt p 1 1) with
    | some band, some target => .ok (band, target)
    | _, _ => .error .range

/-- TAPETEXT: text length (1) 1..32, text (R158). -/
def parseTapetext (p : List Byte) : Except Reason (List Byte) :=
  if p.length < 1 ∨ p.length ≠ 1 + fieldAt p 0 1 then .error .badLength
  else if 1 ≤ fieldAt p 0 1 ∧ fieldAt p 0 1 ≤ 32 then .ok ((p.drop 1).map sanitise)
  else .error .range

end Sys2Proof.Machine
end

