-- ==== Sys2Proof/Machine/Flags.lean ====
section
/-! DEFINITION. The flags and latches: the notice latches of the Link Interface, the ready line, whether the tape is shown,
and the depths the STATUS reply reads. -/

namespace Sys2Proof.Machine

open Sys2Proof

/-- A BAD_FRAME event sets its latch with the kind if the latch is clear, and is lost otherwise (R172). -/
def Link.badFrameEvent (kind : Byte) (l : Link) : Link :=
  match l.badFrame with
  | none => { l with badFrame := some kind }
  | some _ => l

/-- An OVERRUN event sets its latch with the kind if the latch is clear, and is lost otherwise (R172). -/
def Link.overrunEvent (kind : Byte) (l : Link) : Link :=
  match l.overrun with
  | none => { l with overrun := some kind }
  | some _ => l

/-- RDY is high while the Inbound Queue holds fewer than 8 frames, RESET_N is high and initialisation is not under way
(R171). -/
def State.rdy (s : State) : Bool :=
  decide (s.link.inbound.length < Config.inboundCapacity) && decide (s.link.phase = .running)

/-- The Outbound Queue can take a record of a notice class: it has two free places (R176). -/
def Link.admits (l : Link) : Bool := decide (l.outbound.length + 2 ≤ Config.outboundCapacity)

/-- A class of record waits to enter the Outbound Queue besides the replies: a set latch, or an un-notified record of the Miss List
(R176). -/
def State.classWaits (s : State) : Bool :=
  s.link.badFrame.isSome || s.link.overrun.isSome || s.link.feedLatch || s.directory.misses.any (fun m => !m.notified)

/-- Whether a band shows TAPE (R155). -/
def State.tapeShown (s : State) : Bool := s.bands.any (fun b => decide (b.shows = .tape))

/-- The bits of a TAPE or a flag in a reply: 1 for set. -/
def flagBit (b : Bool) : Nat := if b then 1 else 0

end Sys2Proof.Machine
end

