-- ==== Sys2Proof/Machine/Ops.lean ====
section
/-! DEFINITION. The shared operations: answers, and the step of a request (R173), the reset of every block (R179), mark requests,
lookups and sweeps (R98, R99, R122), answers and marks still to come (R60, R109, R117, R177), unpainted marks and pending counts (R93), the band
refresh (R145), the freeing of an entry, where the Painter's work stands (R127), the tape's tear-down (R166), the Feed Watch's
reload (R53), and the writing of cells (R128, R135). -/

namespace Sys2Proof.Machine

open Sys2Proof

/-! ### Answers (R173, R177; assumption log 23) -/

/-- A record enters the Outbound Queue at its tail (R175). -/
def State.place (r : Record) (s : State) : State := { s with link := { s.link with outbound := s.link.outbound ++ [r] } }

/-- A request's work is complete: the Interpreter places its answer at once, or has still to place it where a class waits whose
admission may be first (R173, R177). -/
def State.reply (r : Record) (s : State) : State :=
  { s with
    carrying := if s.classWaits then .answering r else s.carrying
    link := { s.link with outbound := s.link.outbound ++ (if s.classWaits then [] else [r]) } }

/-- The Interpreter places the answer that it has still to place, and the request is ended (R173). -/
def State.placed (s : State) : State :=
  match s.carrying with
  | .answering r => { s with carrying := .idle }.place r
  | .idle => s
  | .release _ _ => s
  | .status _ _ => s

/-- After an admission, an answer still to be placed follows once no class waits (R177). -/
def State.admissionMade (s : State) : State := if s.classWaits then s else s.placed

/-- ACK echoes the request's kind and carries a value (R173). -/
def State.ack (kind : Byte) (value : Nat) (s : State) : State := s.reply (.ack kind value)

/-- REJECT echoes the request's kind and carries the reason (R174). -/
def State.reject (kind : Byte) (reason : Reason) (s : State) : State := s.reply (.reject kind reason)

/-! ### The reset of every block (R179) -/

/-- Every block takes its reset values. The straps as last read, the Cell Store until its fill (R134) and the waiting commands
are kept. -/
def State.resetBlocks (cause : ResetCause) (phase : Phase) (s : State) : State :=
  { State.reset with
    pending := s.pending
    link := { State.reset.link with phase := phase, cause := cause, straps := s.link.straps }
    painter := { State.reset.painter with cells := s.painter.cells } }

/-! ### Mark requests (R83, R98, R99, R122) -/

/-- A LIVE or ERASING entry appears in a band that shows its board, or any board if it is COMMON (R83). -/
def appearsIn (f : Field) (b : Band) : Bool :=
  match f.state, b.shows with
  | .free, _ => false
  | _, .board k => decide (f.placement = .common) || decide (f.placement = .board k)
  | _, _ => false

/-- The entry appears in at least one band. -/
def appears (bands : Table 4 Band) (f : Field) : Bool := bands.any (appearsIn f)

/-- The entry is LIVE, appears in a band, and is not in the Dirty List: a mark request queues it (R122). -/
def State.markable (s : State) (i : EntryIx) : Bool :=
  decide ((s.fields.get i).state = .live) && !(s.fields.get i).dirty && appears s.bands (s.fields.get i)

/-- A mark request for one entry: a LIVE entry that appears in a band joins the Dirty List at its tail unless its dirty mark is
set; any other entry is left as it is (R122). -/
def State.markEntry (s : State) (i : EntryIx) : State :=
  if s.markable i = true then
    { s with
      fields := s.fields.set i { s.fields.get i with dirty := true }
      painter := { s.painter with dirty := s.painter.dirty ++ [i] } }
  else s

/-- The LIVE entries with a property, in ascending index order. -/
def liveEntries (fields : Table 256 Field) (p : Field → Bool) : List EntryIx :=
  fields.indices (fun f => decide (f.state = .live) && p f)

/-- A lookup or a sweep: one mark request for every LIVE entry with the property, in ascending index order (R98, R99). -/
def State.markWhere (p : Field → Bool) (s : State) : State := (liveEntries s.fields p).foldl State.markEntry s

/-- The entry shows this item of this slot. -/
def showsItem (slot : Slot) (item : Item) (f : Field) : Bool := decide (f.slot = some slot) && decide (f.item = item)

/-- The mark requests of a record's change: one lookup for each item, in the order given (R6, R98). -/
def State.markItems (slot : Slot) (items : List Item) (s : State) : State :=
  items.foldl (fun t item => t.markWhere (showsItem slot item)) s

/-- All entries of the slot: one mark request for each of the nine items, in ascending item number (R6). -/
def slotItems : List Item := [.sym, .last, .net, .pct, .bid, .ask, .high, .low, .vol]

/-- The price-bearing items, which the feed's state colours (R57). -/
def priceBearing : Item → Bool
  | .last | .net | .pct | .bid | .ask | .high | .low | .vol => true
  | .sym | .text => false

/-! ### Unpainted marks and pending counts (R93) -/

/-- Change one band record. -/
def State.modifyBand (k : BandIx) (f : Band → Band) (s : State) : State := { s with bands := s.bands.modify k f }

/-- Set an entry's unpainted mark for band k; the band's count rises by one if the mark was clear (R92, R93). -/
def State.setUnpainted (k : BandIx) (s : State) (i : EntryIx) : State :=
  if (s.fields.get i).unpainted.get k = true then s
  else
    { s with
      fields := s.fields.modify i (fun f => { f with unpainted := f.unpainted.set k true })
      bands := s.bands.modify k (fun b => { b with count := b.count + 1 }) }

/-- Clear an entry's unpainted mark for band k; the band's count falls by one if the mark was set (R93). -/
def State.clearUnpainted (i : EntryIx) (s : State) (k : BandIx) : State :=
  if (s.fields.get i).unpainted.get k = true then
    { s with
      fields := s.fields.modify i (fun f => { f with unpainted := f.unpainted.set k false })
      bands := s.bands.modify k (fun b => { b with count := b.count - 1 }) }
  else s

/-- The four bands in ascending order. -/
def allBands : List BandIx := [0, 1, 2, 3]

/-- Clear every unpainted mark an entry holds, each such band's count lowered by one (R89, R91). -/
def State.clearMarksOf (i : EntryIx) (s : State) : State := allBands.foldl (State.clearUnpainted i) s

/-- Clear every entry's unpainted mark for band k and set its count to 0 (R93, R143). -/
def State.clearMarksFor (k : BandIx) (s : State) : State :=
  { s with
    fields := s.fields.map (fun f => { f with unpainted := f.unpainted.set k false })
    bands := s.bands.modify k (fun b => { b with count := 0 }) }

/-- Set the unpainted mark of one entry for band k and send its mark request (R92, R128). -/
def State.sweepEntry (k : BandIx) (s : State) (i : EntryIx) : State := (s.setUnpainted k i).markEntry i

/-- The sweep of band k: the LIVE entries appearing in it, in ascending index order (R92). -/
def State.sweepBand (k : BandIx) (s : State) : State :=
  (liveEntries s.fields (fun f => appearsIn f (s.bands.get k))).foldl (State.sweepEntry k) s

/-- A band refresh: the clear pending is set, the band is CURTAINED, and the Field Map makes its sweep (R145). -/
def State.refreshBand (k : BandIx) (s : State) : State :=
  (s.modifyBand k (fun b => { b with clearPending := true, curtain := .curtained })).sweepBand k

/-- An entry becomes FREE: out of the Dirty List, its marks cleared (R89, R91). -/
def State.freeEntry (s : State) (i : EntryIx) : State :=
  let t := s.clearMarksOf i
  { t with
    fields := t.fields.set i Field.free
    painter := { t.painter with dirty := t.painter.dirty.filter (fun j => decide (j ≠ i)) } }

/-! ### Where the Painter's work stands (R127 to R129, R132; assumption log 10) -/

/-- The Painter's work is written. -/
def State.setWork (w : PaintWork) (s : State) : State := { s with painter := { s.painter with work := w } }

/-- What the Painter owes a band that gives it cause at the start of a step. -/
def lookOf (cause : Bool) : Look := if cause then .owed else .mayLook

/-- The first step looks at each band record whose clear pending is set (R128). -/
def firstLooks (bands : Table 4 Band) : Table 4 Look := bands.map (fun b => lookOf b.clearPending)

/-- A CURTAINED band whose count is 0 and whose clear pending is clear (R132). -/
def openable (b : Band) : Bool := decide (b.curtain = .curtained) && decide (b.count = 0) && !b.clearPending

/-- The third step looks at each band record that is CURTAINED (R132). -/
def thirdLooks (bands : Table 4 Band) : Table 4 Look := bands.map (fun b => lookOf (openable b))

/-- No band still owes the step its action. -/
def allDone (looks : Table 4 Look) (bands : Table 4 Band) (cause : Band → Bool) : Bool :=
  allBands.all (fun k => decide (looks.get k ≠ Look.owed) || !(cause (bands.get k)))

/-- The first step is finished (R127). -/
def clearsDone (looks : Table 4 Look) (bands : Table 4 Band) : Bool := allDone looks bands (fun b => b.clearPending)

/-- A band that has ceased to give the step cause owes it nothing more: the Painter may have looked at it meanwhile. -/
def keepLooks (looks : Table 4 Look) (bands : Table 4 Band) (cause : Band → Bool) : Table 4 Look :=
  Table.ofFn (fun k => if looks.get k = .owed ∧ cause (bands.get k) = false then .mayLook else looks.get k)

/-- Where the work stands after a request that changed the bands or shortened the Dirty List. The second step stops at the
moment its budget is counted or the list is empty, and the third then looks (R129, R132). At the first moment in which no clear
is owed and the list is empty, the second step may be made with nothing to take. -/
def PaintWork.update (bands : Table 4 Band) (dirty : List EntryIx) : PaintWork → PaintWork
  | .idle => .idle
  | .clearing looks (some third) =>
    .clearing (keepLooks looks bands (fun b => b.clearPending)) (some (keepLooks third bands openable))
  | .clearing looks none =>
    .clearing (keepLooks looks bands (fun b => b.clearPending))
      (if clearsDone looks bands = true ∧ dirty = [] then some (thirdLooks bands) else none)
  | .taking budget counted =>
    if budget ≤ counted ∨ dirty = [] then .releasing (thirdLooks bands) else .taking budget counted
  | .releasing looks => .releasing (keepLooks looks bands openable)

/-- The Painter's work follows a change to the bands or the Dirty List. -/
def State.updateWork (s : State) : State := s.setWork (s.painter.work.update s.bands s.painter.dirty)

/-! ### Marks still to come (R60, R109, R117; assumption log 22) -/

/-- A taking may fall before the next step of another kind, and would take an entry (R127, R129). -/
def State.mayTake (s : State) : Bool :=
  match s.painter.work with
  | .clearing looks _ => clearsDone looks s.bands && !s.painter.dirty.isEmpty
  | .taking _ _ => true
  | .idle => false
  | .releasing _ => false

/-- The entries of a palette set. -/
def inPalette (set : SetIx) (f : Field) : Bool := decide (f.palette = set)

/-- The Field Map carries out what a change has handed to it: the lookups in the order given (R98), or a SETPAL's sweep, at the end
of which the ACK is placed (R99, R116, R173). -/
def State.carryOut (m : Marks) (s : State) : State :=
  match m with
  | .lookups slot items => s.markItems slot items
  | .sweep set attr => (s.markWhere (inPalette set)).ack Kind.setpal attr.val

/-- A change hands its marks to the Field Map: they are carried out at once, or are still to come where a taking may fall between
the change and its marks (R60, R109, R117). -/
def State.handOver (m : Marks) (s : State) : State := if s.mayTake then { s with owed := some m } else s.carryOut m

/-- Every step but a taking and those of the Link Interface's own finds the marks of the change before it carried out: only takings
fall between a change and its marks (R20, R60, R109, R117). -/
def State.settled (s : State) : State :=
  match s.owed with
  | some m => { s with owed := none }.carryOut m
  | none => s

/-- What the Interpreter's next step finds: the marks of the change before it carried out, and the answer of the request before it
placed (R173). -/
def State.ready (s : State) : State := s.settled.placed

/-! ### The step of a request (R173) -/

/-- The Interpreter can take the frame at the head: the part runs, no request is being carried out, and the Outbound Queue
has a free place (R173, R180). -/
def State.canTake (s : State) : Bool :=
  decide (s.link.phase = .running) && decide (s.carrying = .idle)
    && decide (s.link.outbound.length < Config.outboundCapacity)

/-- Taking the head frame removes it from the Inbound Queue (R173). -/
def State.takeHead (s : State) : State := { s with link := { s.link with inbound := s.link.inbound.tail } }

/-- The frame at the head, where the Interpreter can take it. -/
def State.headFrame (s : State) : Option LinkFrame := if s.canTake then s.link.inbound.head? else none

/-- The Interpreter takes the frame at the head if it is of the kind: its length and ranges are checked, and it is carried out or
refused. Where no such frame can be taken, nothing changes (R173: the frame waits; assumption log 1). -/
def State.serve {α : Type} (kind : Byte) (parse : List Byte → Except Reason α) (work : α → State → State) (s : State) : State :=
  match s.headFrame with
  | none => s
  | some f =>
    if f.kind = kind then
      match parse f.payload with
      | .error reason => s.takeHead.reject kind reason
      | .ok a => work a s.takeHead
    else s

/-- The step of one request (R173). -/
def request {α : Type} (kind : Byte) (parse : List Byte → Except Reason α) (work : α → State → State) (s : State) :
    Host.Outcome State Fault Refusal :=
  .next (s.ready.serve kind parse work)

/-! ### The tape (R166) -/

/-- Tear-down: queue and ring emptied, offset 0, LATE clear, the base speed kept (R166). -/
def Tape.tearDown (t : Tape) : Tape := { t with queue := [], ring := [], offset := 0, late := false }

/-! ### The Feed Watch (R53, R57) -/

/-- The two effects of an expiry and of a recovery, made after the state has changed (R57): the sweep of the price-bearing
entries, then the FEED latch. -/
def State.feedChanged (s : State) : State :=
  let t := s.markWhere (fun f => priceBearing f.item)
  { t with link := { t.link with feedLatch := true } }

/-- The Feed Watch is written. -/
def State.setWatch (w : FeedWatch) (s : State) : State := { s with intake := { s.intake with watch := w } }

/-- A reload (R53). -/
def State.reloadFeed (s : State) : State :=
  match s.intake.watch with
  | .off => s
  | .fresh period _ => s.setWatch (.fresh period period)
  | .stale period => (s.setWatch (.fresh period period)).feedChanged

/-! ### The Cell Store (R128, R134, R135) -/

/-- Write one cell, where the row and column exist. -/
def CellStore.write (store : CellStore) (x : Nat × Nat × Cell) : CellStore :=
  if hr : x.1 < 36 then
    if hc : x.2.1 < 96 then store.modify ⟨x.1, hr⟩ (fun row => row.set ⟨x.2.1, hc⟩ x.2.2) else store
  else store

/-- The cell at a row and column. -/
def CellStore.at (store : CellStore) (row : Fin 36) (column : Fin 96) : Cell := (store.get row).get column

/-- Fill whole rows from `top` to top + height − 1 with one cell (R128). -/
def CellStore.fillRows (store : CellStore) (top height : Nat) (c : Cell) : CellStore :=
  Table.ofFn (fun r =>
    if top ≤ r.val ∧ r.val < top + height then Table.replicate 96 c else store.get r)

/-- The width multiplier of a size code (R135). -/
def widthMul (size : Fin 4) : Nat := if size = 1 ∨ size = 3 then 2 else 1

/-- The height multiplier of a size code (R135). -/
def heightMul (size : Fin 4) : Nat := if size = 2 ∨ size = 3 then 2 else 1

/-- The part a cell takes from its place in a character's block: `dr` its row, `dc` its column there (R134, R135). -/
def partAt (size : Fin 4) (dr dc : Nat) : Part :=
  if size = 0 then .whole
  else if size = 1 then (if dc = 0 then .left else .right)
  else if size = 2 then (if dr = 0 then .top else .bottom)
  else if dr = 0 then (if dc = 0 then .topLeft else .topRight)
  else (if dc = 0 then .bottomLeft else .bottomRight)

/-- The cells that one character at a logical row and column is expanded onto, before clipping (R135). -/
def charCells (b : Band) (row column : Nat) (code : Byte) (attr : AttrIx) : List (Nat × Nat × Cell) :=
  (List.range (heightMul b.size)).flatMap (fun dr =>
    (List.range (widthMul b.size)).map (fun dc =>
      (b.top + row * heightMul b.size + dr, column * widthMul b.size + dc, ⟨code, attr, partAt b.size dr dc⟩)))

/-- A physical cell is written only inside the band's rows and left of column 96 (R135). -/
def clipped (b : Band) (x : Nat × Nat × Cell) : Bool :=
  decide (b.top ≤ x.1 ∧ x.1 < b.top + b.height ∧ x.2.1 < 96)

/-- The cells a run of characters is expanded onto from its first logical column on, in any size and unclipped (R135). -/
def runCells (b : Band) (row : Nat) : Nat → List (Byte × AttrIx) → List (Nat × Nat × Cell)
  | _, [] => []
  | column, (code, attr) :: rest => charCells b row column code attr ++ runCells b row (column + 1) rest

/-- The cells a field's characters are written to in a band (R135). -/
def fieldCells (b : Band) (row column : Nat) (chars : List (Byte × AttrIx)) : List (Nat × Nat × Cell) :=
  (runCells b row column chars).filter (clipped b)

/-- Write a list of cells. -/
def CellStore.writeAll (store : CellStore) (xs : List (Nat × Nat × Cell)) : CellStore := xs.foldl CellStore.write store

end Sys2Proof.Machine
end

