-- ==== Sys2Proof/Machine/Bands.lean ====
section
/-! DEFINITION. The Band Table (Chapter 8): BAND and SHOW, and BLINK. -/

namespace Sys2Proof.Machine

open Sys2Proof

/-- Another used band holds one of the rows top to top + height − 1 (R140). -/
def rowsTaken (bands : Table 4 Band) (k : BandIx) (top height : Nat) : Bool :=
  allBands.any (fun j =>
    decide (j ≠ k) && decide (0 < (bands.get j).height) && decide (top < (bands.get j).top + (bands.get j).height)
      && decide ((bands.get j).top < top + height))

/-- A size of double width, which a tape band may not have (R140, R142). -/
def doubleWidth (size : Fin 4) : Bool := decide (size = 1) || decide (size = 3)

/-- The tape is torn down when the band showed it (R141, R143, R166). -/
def State.leaveTape (shown : Shows) (s : State) : State := if shown = .tape then { s with tape := s.tape.tearDown } else s

/-- A BAND of height 0: the band is unused and shows NONE, OPEN, with no count, no clear pending and no unpainted marks, and
a tape it showed is torn down (R141). -/
def State.freeBand (k : BandIx) (shown : Shows) (s : State) : State :=
  ((s.clearMarksFor k).modifyBand k
    (fun b => { b with shows := .nothing, curtain := .opened, count := 0, clearPending := false })).leaveTape shown

/-- What follows from the height given and from what the band shows (R141). -/
def State.settleBand (k : BandIx) (height : Nat) (shown : Shows) (s : State) : State :=
  if height = 0 then s.freeBand k shown
  else
    match shown with
    | .nothing => s.modifyBand k (fun b => { b with curtain := .opened })
    | .board _ => s.refreshBand k
    | .tape => s.modifyBand k (fun b => { b with curtain := .opened })

/-- BAND after its length and RANGE checks (R140, R141). -/
def bandWork (r : BandReq) (s : State) : State :=
  if 0 < r.height ∧ rowsTaken s.bands r.band r.top r.height = true then s.reject Kind.band .overlap
  else if 0 < r.height ∧ (s.bands.get r.band).shows = .tape ∧ doubleWidth r.size = true then s.reject Kind.band .badState
  else
    ((s.modifyBand r.band
        (fun b => { b with top := r.top, height := r.height, size := r.size, background := r.background })).settleBand
      r.band r.height (s.bands.get r.band).shows).updateWork.ack Kind.band r.band.val

/-- BAND (R140). -/
def execBand (s : State) : Host.Outcome State Fault Refusal := request Kind.band parseBand bandWork s

/-- A SHOW is refused with BAD_STATE (R142). -/
def showRefused (bands : Table 4 Band) (k : BandIx) (target : Shows) : Bool :=
  decide ((bands.get k).height = 0)
    || (decide (target = .tape)
      && (allBands.any (fun j => decide (j ≠ k) && decide ((bands.get j).shows = .tape))
        || doubleWidth (bands.get k).size))

/-- Another band that shows the target board is set to show NONE (R143, first step). -/
def State.stealFrom (k : BandIx) (target : Shows) (s : State) (j : BandIx) : State :=
  if j ≠ k ∧ (s.bands.get j).shows = target then
    (s.clearMarksFor j).modifyBand j
      (fun b => { b with shows := .nothing, count := 0, clearPending := true, curtain := .opened })
  else s

/-- Board stealing, when the target is a board (R143, first step). -/
def State.stealBoard (k : BandIx) (target : Shows) (s : State) : State :=
  match target with
  | .board _ => allBands.foldl (State.stealFrom k target) s
  | .nothing => s
  | .tape => s

/-- Leaving a board clears the band's marks and count (R143, second step). -/
def State.leaveBoard (k : BandIx) (s : State) : State :=
  match (s.bands.get k).shows with
  | .board _ => s.clearMarksFor k
  | .nothing => s
  | .tape => s

/-- Band k takes the target (R144). -/
def State.takeTarget (k : BandIx) (target : Shows) (s : State) : State :=
  match target with
  | .board b => ((s.modifyBand k (fun x => { x with shows := .board b })).refreshBand k).updateWork
  | .nothing =>
    (s.modifyBand k (fun x => { x with shows := .nothing, count := 0, clearPending := true, curtain := .opened })).updateWork
  | .tape =>
    if (s.bands.get k).shows = .tape then s
    else (s.modifyBand k (fun x => { x with shows := .tape, count := 0, curtain := .opened })).updateWork

/-- SHOW after its length and range checks (R142 to R144). -/
def showWork (r : BandIx × Shows) (s : State) : State :=
  if showRefused s.bands r.1 r.2 = true then s.reject Kind.showBand .badState
  else
    let t := (s.stealBoard r.1 r.2).leaveBoard r.1
    ((if r.2 = .tape then t else t.leaveTape (s.bands.get r.1).shows).takeTarget r.1 r.2).ack Kind.showBand r.1.val

/-- SHOW (R142). -/
def execShowBand (s : State) : Host.Outcome State Fault Refusal := request Kind.showBand parseShow showWork s

/-- BLINK: the period clamped into 2..30, the count 0, the phase kept (R152). -/
def execBlink (s : State) : Host.Outcome State Fault Refusal :=
  request Kind.blink (oneClamped 2 30)
    (fun period t =>
      { t with raster := { t.raster with blinkPeriod := period, blinkCount := 0 } }.ack Kind.blink period) s

end Sys2Proof.Machine
end

