-- ==== Sys2Proof/Machine/FieldMap.lean ====
section
/-! DEFINITION. The Field Map (Chapter 5): MAP, UNMAP, MFLUSH, MPROBE, MFIND and SETTEXT. -/

namespace Sys2Proof.Machine

open Sys2Proof

/-- Two entries can appear in the same band when they are placed on the same board, or either is COMMON (R84). -/
def canMeet (a b : Placement) : Bool := decide (a = .common) || decide (b = .common) || decide (a = b)

/-- Two entries share a logical cell (R84). -/
def sharesCell (a b : Field) : Bool :=
  decide (a.row = b.row) && decide (a.column < b.column + b.width) && decide (b.column < a.column + a.width)

/-- A LIVE entry stands in the way of a new one by showing the same item of the same slot (R87, DUPLICATE). -/
def duplicates (new e : Field) : Bool :=
  decide (new.item ≠ Item.text) && decide (e.state = .live) && canMeet new.placement e.placement
    && decide (e.slot = new.slot) && decide (e.item = new.item)

/-- A LIVE entry stands in the way of a new one by sharing a logical cell (R87, OVERLAP). -/
def overlaps (new e : Field) : Bool :=
  decide (e.state = .live) && canMeet new.placement e.placement && sharesCell new e

/-- In a band in which the new entry appears and which is CURTAINED, its unpainted mark is set (R88). -/
def State.holdCurtain (i : EntryIx) (s : State) (k : BandIx) : State :=
  if appearsIn (s.fields.get i) (s.bands.get k) = true ∧ (s.bands.get k).curtain = .curtained then s.setUnpainted k i else s

/-- A new entry is written, holds the curtains of the bands it appears in, and is marked (R88). -/
def State.placeEntry (i : EntryIx) (f : Field) (s : State) : State :=
  (allBands.foldl (State.holdCurtain i) { s with fields := s.fields.set i f }).markEntry i

/-- MAP after its length and range checks: DUPLICATE, OVERLAP, FULL in this order, else the lowest FREE entry is taken
(R87, R88). -/
def mapWork (f : Field) (s : State) : State :=
  if s.fields.any (duplicates f) = true then s.reject Kind.map .duplicate
  else if s.fields.any (overlaps f) = true then s.reject Kind.map .overlap
  else
    match s.fields.lowest (fun e => decide (e.state = .free)) with
    | none => s.reject Kind.map .full
    | some i => (s.placeEntry i f).updateWork.ack Kind.map i.val

/-- MAP (R86 to R88). -/
def execMap (s : State) : Host.Outcome State Fault Refusal := request Kind.map parseMap mapWork s

/-- A LIVE entry that appears in a band becomes ERASING: its unpainted marks are cleared, and it keeps its place in the
Dirty List or joins it at the tail (R89, R123). -/
def State.eraseEntry (i : EntryIx) (s : State) : State :=
  let t := s.clearMarksOf i
  { t with
    fields := t.fields.modify i (fun f => { f with state := .erasing, dirty := true })
    painter :=
      { t.painter with dirty := if (t.fields.get i).dirty then t.painter.dirty else t.painter.dirty ++ [i] } }

/-- UNMAP after its check (R89). -/
def unmapWork (i : EntryIx) (s : State) : State :=
  (if (s.fields.get i).state = .live then
    (if appears s.bands (s.fields.get i) = true then s.eraseEntry i else s.freeEntry i).updateWork
  else s).ack Kind.unmap i.val

/-- UNMAP (R89). -/
def execUnmap (s : State) : Host.Outcome State Fault Refusal := request Kind.unmap indexOnly unmapWork s

/-- The entries of an MFLUSH's group (R91). -/
def FieldGroup.selects : FieldGroup → Field → Bool
  | .board b, f => decide (f.placement = .board b) && decide (f.state ≠ FieldState.free)
  | .common, f => decide (f.placement = .common) && decide (f.state ≠ FieldState.free)
  | .all, f => decide (f.state ≠ FieldState.free)

/-- The bands an MFLUSH refreshes (R91). -/
def FieldGroup.refreshes : FieldGroup → Band → Bool
  | .board k, b => decide (b.shows = .board k)
  | .common, b => (match b.shows with | .board _ => true | .nothing => false | .tape => false)
  | .all, b => (match b.shows with | .board _ => true | .nothing => false | .tape => false)

/-- MFLUSH after its checks: the group is freed, then the bands concerned are refreshed in ascending order (R91). -/
def mflushWork (g : FieldGroup) (s : State) : State :=
  let freed := s.fields.indices g.selects
  ((s.bands.indices g.refreshes).foldl (fun t k => t.refreshBand k) (freed.foldl State.freeEntry s)).updateWork.ack
    Kind.mflush freed.length

/-- MFLUSH (R91). -/
def execMflush (s : State) : Host.Outcome State Fault Refusal := request Kind.mflush parseMflush mflushWork s

/-- The FIELD reply describing an entry; a FREE entry is reported by zeros and an absent slot (R94, R95). -/
def describe (found : Bool) (index : Nat) (e : Field) : FieldReply :=
  let f := if e.state = .free then Field.free else e
  { found := found
    index := index
    state := f.state.code
    placement := f.placement.code
    slot := match f.slot with | some k => k.val | none => 0xFFFF
    item := f.item.code
    row := f.row
    column := f.column
    width := f.width
    palette := f.palette.val
    steady := f.steady
    dirty := f.dirty
    unpainted := f.unpainted.list
    text := f.text }

/-- MPROBE (R95). -/
def execMprobe (s : State) : Host.Outcome State Fault Refusal :=
  request Kind.mprobe indexOnly (fun i t => t.reply (.field (describe true i.val (t.fields.get i)))) s

/-- A LIVE entry that shows this item of this slot on the board or in COMMON (R96). -/
def findable (slot : Slot) (item : Item) (board : BoardIx) (f : Field) : Bool :=
  decide (f.state = .live) && showsItem slot item f
    && (decide (f.placement = .board board) || decide (f.placement = .common))

/-- The FIELD reply of an MFIND (R96). -/
def findReply (fields : Table 256 Field) (slot : Slot) (item : Item) (board : BoardIx) : FieldReply :=
  match fields.lowest (findable slot item board) with
  | some i => describe true i.val (fields.get i)
  | none => { describe false 0 Field.free with slot := slot.val, item := item.code, placement := board.val }

/-- MFIND (R96). -/
def execMfind (s : State) : Host.Outcome State Fault Refusal :=
  request Kind.mfind parseMfind (fun r t => t.reply (.field (findReply t.fields r.1 r.2.1 r.2.2))) s

/-- SETTEXT after its length and range checks (R97). -/
def settextWork (r : EntryIx × List Byte) (s : State) : State :=
  if (s.fields.get r.1).state = .live ∧ (s.fields.get r.1).item = .text then
    ({ s with fields := s.fields.modify r.1 (fun f => { f with text := r.2 }) }.markEntry r.1).ack Kind.settext r.1.val
  else s.reject Kind.settext .badState

/-- SETTEXT (R97). -/
def execSettext (s : State) : Host.Outcome State Fault Refusal := request Kind.settext parseSettext settextWork s

end Sys2Proof.Machine
end

