-- ==== Sys2Proof/Machine/Directory.lean ====
section
/-! DEFINITION. The Symbol Directory (Chapter 2): the lookup, the Miss List, and INSTALL, REMOVE, DFLUSH, DPROBE and
MPURGE. -/

namespace Sys2Proof.Machine

open Sys2Proof

/-- A valid entry matches a pair when its code is the pair's and its venue is, or its any flag is 1 (R22). -/
def DirEntry.covers (e : DirEntry) (venue : Venue) (code : Code) : Bool :=
  decide (e.code = code) && (decide (e.venue = venue) || e.any)

/-- A directory entry, free or valid, satisfies a property of valid ones. -/
def validWith (p : DirEntry → Bool) : Option DirEntry → Bool
  | some e => p e
  | none => false

/-- The valid entry matching a pair, with its index (R22, R23). -/
def Directory.find (d : Directory) (venue : Venue) (code : Code) : Option (DirIx × DirEntry) :=
  match d.entries.lowest (validWith (fun e => e.covers venue code)) with
  | some i => (d.entries.get i).map (fun e => (i, e))
  | none => none

/-- A missed pair is offered to the Miss List (R32, R33). -/
def Directory.offerMiss (venue : Venue) (code : Code) (d : Directory) : Directory :=
  if d.misses.any (fun m => decide (m.venue = venue) && decide (m.code = code)) then d
  else if d.misses.length < Config.missCapacity then { d with misses := d.misses ++ [⟨venue, code, false⟩] }
  else { d with overflow := true }

/-- The two entries have the same identity (R21). -/
def DirEntry.sameIdentity (e x : DirEntry) : Bool :=
  decide (x.venue = e.venue) && decide (x.any = e.any) && decide (x.code = e.code)

/-- The two entries would both match some pair although their identities differ (R25). -/
def DirEntry.conflicts (e x : DirEntry) : Bool := decide (x.code = e.code) && (e.any || x.any)

/-- INSTALL after its length and range checks: NO_SLOT, DUPLICATE, CONFLICT, FULL in this order (R25), else the lowest free
entry is taken and the misses it matches are removed (R26). -/
def installWork (e : DirEntry) (s : State) : State :=
  if (s.records.get e.slot).state = .empty then s.reject Kind.install .noSlot
  else if s.directory.entries.any (validWith e.sameIdentity) = true then s.reject Kind.install .duplicate
  else if s.directory.entries.any (validWith e.conflicts) = true then s.reject Kind.install .conflict
  else
    match s.directory.entries.lowest Option.isNone with
    | none => s.reject Kind.install .full
    | some i =>
      { s with directory :=
          { s.directory with
            entries := s.directory.entries.set i (some e)
            misses := s.directory.misses.filter (fun m => !(e.covers m.venue m.code)) } }.ack Kind.install i.val

/-- INSTALL (R25, R26). -/
def execInstall (s : State) : Host.Outcome State Fault Refusal := request Kind.install parseInstall installWork s

/-- REMOVE after its checks: the entry of that identity becomes free, or FFFFh is acknowledged (R27). -/
def removeWork (r : Venue × Bool × Code) (s : State) : State :=
  match s.directory.entries.lowest (validWith (fun x =>
      decide (x.venue = r.1) && decide (x.any = r.2.1) && decide (x.code = r.2.2))) with
  | some i =>
    { s with directory := { s.directory with entries := s.directory.entries.set i none } }.ack Kind.remove i.val
  | none => s.ack Kind.remove 0xFFFF

/-- REMOVE (R27). -/
def execRemove (s : State) : Host.Outcome State Fault Refusal := request Kind.remove parseRemove removeWork s

/-- The entries of a DFLUSH's group (R28). -/
def DirGroup.selects : DirGroup → DirEntry → Bool
  | .venue v, e => !e.any && decide (e.venue = v)
  | .anyVenue, e => e.any
  | .all, _ => true

/-- DFLUSH after its checks (R28). -/
def dflushWork (g : DirGroup) (s : State) : State :=
  { s with directory :=
      { s.directory with
        entries := s.directory.entries.map (fun x => if validWith g.selects x then none else x) } }.ack Kind.dflush
    (s.directory.entries.count (validWith g.selects))

/-- DFLUSH (R28). -/
def execDflush (s : State) : Host.Outcome State Fault Refusal := request Kind.dflush parseDflush dflushWork s

/-- The DENTRY reply for a pair (R29). -/
def dentryReply (d : Directory) (venue : Venue) (code : Code) : DentryReply :=
  match d.find venue code with
  | some (i, e) => ⟨true, i.val, e.venue.val, e.any, e.code, e.slot.val⟩
  | none => ⟨false, 0, venue.val, false, code, 0⟩

/-- DPROBE (R29). -/
def execDprobe (s : State) : Host.Outcome State Fault Refusal :=
  request Kind.dprobe parseDprobe (fun r t => t.reply (.dentry (dentryReply t.directory r.1 r.2))) s

/-- MPURGE after its check (R36). -/
def mpurgeWork (_ : Unit) (s : State) : State :=
  { s with directory := { s.directory with misses := [], overflow := false } }.ack Kind.mpurge s.directory.misses.length

/-- MPURGE (R36). -/
def execMpurge (s : State) : Host.Outcome State Fault Refusal := request Kind.mpurge noFields mpurgeWork s

end Sys2Proof.Machine
end

