-- ==== Sys2Proof/Machine/Instruments.lean ====
section
/-! DEFINITION. The Instrument Table (Chapter 1): DEFINE, CLEAR, HALT, RESUME, SETREF, OPEN_DAY and QUERY, and the
application of a tick's items to a record. -/

namespace Sys2Proof.Machine

open Sys2Proof

/-- One record is written. -/
def State.setRecord (slot : Slot) (q : Quote) (s : State) : State := { s with records := s.records.set slot q }

/-- The record DEFINE makes (R8). -/
def definedQuote (format : Format) (symbol : List Byte) : Quote :=
  { Quote.empty with state := .active, symbol := symbol, format := format }

/-- DEFINE after its checks (R8). -/
def defineWork (r : DefineReq) (s : State) : State :=
  ((s.setRecord r.slot (definedQuote r.format r.symbol)).markItems r.slot slotItems).ack Kind.define r.slot.val

/-- DEFINE (R8). -/
def execDefine (s : State) : Host.Outcome State Fault Refusal := request Kind.define parseDefine defineWork s

/-- Whether a valid directory entry names the slot (R9). -/
def Directory.names (d : Directory) (slot : Slot) : Bool :=
  d.entries.any (fun e => match e with | some x => decide (x.slot = slot) | none => false)

/-- CLEAR after its checks: IN_USE, or the reset values with the format kept (R9). -/
def clearWork (slot : Slot) (s : State) : State :=
  if s.directory.names slot = true then s.reject Kind.clear .inUse
  else
    ((s.setRecord slot { Quote.empty with format := (s.records.get slot).format }).markItems slot slotItems).ack
      Kind.clear slot.val

/-- CLEAR (R9). -/
def execClear (s : State) : Host.Outcome State Fault Refusal := request Kind.clear slotOnly clearWork s

/-- HALT and RESUME give a defined record the state, marking SYM, LAST, NET and PCT (R10). -/
def tradingWork (kind : Byte) (state : RecState) (slot : Slot) (s : State) : State :=
  if (s.records.get slot).state = .empty then s.reject kind .badState
  else
    ((s.setRecord slot { s.records.get slot with state := state }).markItems slot [.sym, .last, .net, .pct]).ack
      kind slot.val

/-- HALT (R10). -/
def execHalt (s : State) : Host.Outcome State Fault Refusal := request Kind.halt slotOnly (tradingWork Kind.halt .halted) s

/-- RESUME (R10). -/
def execResume (s : State) : Host.Outcome State Fault Refusal :=
  request Kind.resume slotOnly (tradingWork Kind.resume .active) s

/-- SETREF after its checks (R11). -/
def setrefWork (r : Slot × Option Nat) (s : State) : State :=
  if (s.records.get r.1).state = .empty then s.reject Kind.setref .badState
  else
    ((s.setRecord r.1 { s.records.get r.1 with reference := r.2 }).markItems r.1 [.net, .pct]).ack Kind.setref r.1.val

/-- SETREF (R11). -/
def execSetref (s : State) : Host.Outcome State Fault Refusal := request Kind.setref parseSetref setrefWork s

/-- The roll of one record into a new day; an EMPTY record is untouched (R12). -/
def rollQuote (q : Quote) : Quote :=
  if q.state = .empty then q
  else
    { q with
      reference := if q.last.isSome then q.last else q.reference
      last := none, bid := none, ask := none, high := none, low := none
      volume := 0, heat := 0, direction := .none }

/-- OPEN_DAY after its checks: every record rolled, every non-TEXT entry marked, the number of records rolled (R12, R99). -/
def openDayWork (_ : Unit) (s : State) : State :=
  ({ s with records := s.records.map rollQuote }.markWhere (fun f : Field => decide (f.item ≠ Item.text))).ack Kind.openDay
    (s.records.count (fun q : Quote => decide (q.state ≠ RecState.empty)))

/-- OPEN_DAY (R12). -/
def execOpenDay (s : State) : Host.Outcome State Fault Refusal := request Kind.openDay noFields openDayWork s

/-- QUERY (R13). -/
def execQuery (s : State) : Host.Outcome State Fault Refusal :=
  request Kind.query slotOnly (fun slot t => t.reply (.quote slot (t.records.get slot))) s

/-! ### Applying a tick (R14 to R19) -/

/-- A REF item (R15). -/
def applyRef (item : Option Nat) (q : Quote) : Quote :=
  match item with
  | some p => { q with reference := some p }
  | none => q

/-- Direction and heat after a LAST item of price `new`, with the flash heat in force (R16). -/
def moved (flash new : Nat) (q : Quote) : Direction × Nat :=
  match q.last, q.reference with
  | some old, _ => if new > old then (.up, flash) else if new < old then (.down, flash) else (q.direction, q.heat)
  | none, some r => if new > r then (.up, flash) else if new < r then (.down, flash) else (.none, q.heat)
  | none, none => (.none, q.heat)

/-- A LAST item raises the day's high when it was absent or the price is above it (R17). -/
def raisesHigh (q : Quote) (new : Nat) : Bool := match q.high with | some h => decide (new > h) | none => true

/-- A LAST item lowers the day's low when it was absent or the price is below it (R17). -/
def lowersLow (q : Quote) (new : Nat) : Bool := match q.low with | some l => decide (new < l) | none => true

/-- A LAST item (R16, R17). -/
def applyLast (flash : Nat) (item : Option (Nat × Nat)) (q : Quote) : Quote :=
  match item with
  | some (new, size) =>
    { q with
      direction := (moved flash new q).1
      heat := (moved flash new q).2
      last := some new
      high := if raisesHigh q new then some new else q.high
      low := if lowersLow q new then some new else q.low
      volume := min (q.volume + size) Config.maxVolume }
  | none => q

/-- A BID item (R18). -/
def applyBid (item : Option Nat) (q : Quote) : Quote := match item with | some p => { q with bid := some p } | none => q

/-- An ASK item (R18). -/
def applyAsk (item : Option Nat) (q : Quote) : Quote := match item with | some p => { q with ask := some p } | none => q

/-- A VOL item (R19). -/
def applyVol (item : Option Nat) (q : Quote) : Quote := match item with | some v => { q with volume := v } | none => q

/-- A tick's items in the fixed order REF, LAST, BID, ASK, VOL (R14). -/
def applyItems (flash : Nat) (it : TickItems) (q : Quote) : Quote :=
  applyVol it.vol (applyAsk it.ask (applyBid it.bid (applyLast flash it.last (applyRef it.ref q))))

/-- The items a tick marks on a record, each once, in ascending item number (R6, R15, R17, R18, R19). -/
def tickMarks (it : TickItems) (q : Quote) : List Item :=
  (if it.last.isSome then [.last] else [])
    ++ (if it.last.isSome || it.ref.isSome then [.net, .pct] else [])
    ++ (if it.bid.isSome then [.bid] else [])
    ++ (if it.ask.isSome then [.ask] else [])
    ++ (match it.last with | some (new, _) => if raisesHigh q new then [.high] else [] | none => [])
    ++ (match it.last with | some (new, _) => if lowersLow q new then [.low] else [] | none => [])
    ++ (if it.vol.isSome || (match it.last with | some (_, size) => decide (0 < size) | none => false) then [.vol] else [])

/-- The application of one tick to its record, with the marks of all its items when it ends (R6, R14, R60). -/
def State.applyTick (slot : Slot) (it : TickItems) (s : State) : State :=
  (s.settled.setRecord slot (applyItems s.colour.flashHeat it (s.records.get slot))).handOver
    (.lookups slot (tickMarks it (s.records.get slot)))

end Sys2Proof.Machine
end

