-- ==== Sys2Proof/Machine/Arithmetic.lean ====
section
/-! DEFINITION. The Formatter (Chapter 4): the natural texts of prices, changes, percents and volumes, their fitting to a
width, and the render outcome of each item. -/

namespace Sys2Proof.Machine

open Sys2Proof

/-! ### Numbers as text -/

/-- The byte of a decimal digit (R62). -/
def digitByte (d : Nat) : Byte := BitVec.ofNat 8 (0x30 + d)

/-- At most `fuel` decimal digits of a number, without leading zeros. -/
def digits : Nat → Nat → List Byte
  | 0, _ => []
  | fuel + 1, n => if n < 10 then [digitByte n] else digits fuel (n / 10) ++ [digitByte (n % 10)]

/-- A number in decimal without leading zeros, a lone "0" for zero. -/
def decimal (n : Nat) : List Byte := digits (n + 1) n

/-- A number in exactly so many digits, leading zeros included. -/
def padded : Nat → Nat → List Byte
  | 0, _ => []
  | k + 1, n => padded k (n / 10) ++ [digitByte (n % 10)]

/-! ### Price notations (R63 to R66) -/

/-- The natural text in Dn (R63). -/
def decText (n v : Nat) : List Byte :=
  decimal (v / 10 ^ n) ++ (if n = 0 then [] else (0x2E : Byte) :: padded n (v % 10 ^ n))

/-- The natural text in F32H (R64). -/
def f32hText (v : Nat) : List Byte :=
  decimal (v / 64) ++ (0x2D : Byte) :: padded 2 (v % 64 / 2) ++ (if v % 64 % 2 = 1 then [(0x2B : Byte)] else [])

/-- The natural text in F32E; four eighths are written "+" (R65). -/
def f32eText (v : Nat) : List Byte :=
  decimal (v / 256) ++ (0x2D : Byte) :: padded 2 (v % 256 / 8)
    ++ [if v % 256 % 8 = 4 then (0x2B : Byte) else digitByte (v % 256 % 8)]

/-- The natural text in F8 (R66). -/
def f8Text (v : Nat) : List Byte := decimal (v / 8) ++ [(0x2D : Byte), digitByte (v % 8)]

/-- The natural text of a count in a format (R63 to R66). -/
def naturalPrice : Format → Nat → List Byte
  | .dec n, v => decText n.val v
  | .f32h, v => f32hText v
  | .f32e, v => f32eText v
  | .f8, v => f8Text v

/-! ### Fitting (R62, R67, R69, R72) -/

/-- A count rounded to `j` fewer places, halves up (R67). -/
def roundOff (j v : Nat) : Nat := (v + 10 ^ j / 2) / 10 ^ j

/-- The candidate texts of a price, in the order they are tried: fewer and fewer places in a decimal format, always from the
original count (R67), the natural text alone in a fractional one (R69). -/
def priceCandidates : Format → Nat → List (List Byte)
  | .dec n, v => (List.range (n.val + 1)).map (fun j => decText (n.val - j) (roundOff j v))
  | f, v => [naturalPrice f v]

/-- A text fitted to a width: the spaces justification puts before it, the text, and those it puts after (R62, R115). -/
structure Fitted where
  lead : Nat
  text : List Byte
  trail : Nat
  deriving DecidableEq, Repr

/-- The characters of a fitted text. -/
def Fitted.chars (f : Fitted) : List Byte := List.replicate f.lead 0x20 ++ f.text ++ List.replicate f.trail 0x20

/-- The first candidate of at most w characters. -/
def firstFit (w : Nat) (candidates : List (List Byte)) : Option (List Byte) :=
  candidates.find? (fun t => decide (t.length ≤ w))

/-- Right justification of the first candidate that fits, hash fill where none does (R62). -/
def rightJustify (w : Nat) (candidates : List (List Byte)) : Fitted :=
  match firstFit w candidates with
  | some t => ⟨w - t.length, t, 0⟩
  | none => ⟨0, List.replicate w 0x23, 0⟩

/-- Left justification: trailing spaces, or the first w characters (R62). -/
def leftJustify (w : Nat) (t : List Byte) : Fitted := ⟨0, t.take w, w - t.length⟩

/-! ### Items (R61, R70 to R79) -/

/-- The render outcome (R76). -/
inductive RenderOutcome where
  | blank | shown | positive | negative | zero
  deriving DecidableEq, Repr

/-- What the Formatter hands the Painter for a field (R59). -/
structure Rendering where
  fitted : Fitted
  outcome : RenderOutcome
  deriving DecidableEq, Repr

/-- w spaces with the outcome BLANK (R61); none of them is added by justification (R115). -/
def blanks (w : Nat) : Rendering := ⟨⟨0, List.replicate w 0x20, 0⟩, .blank⟩

/-- A price item: its count fitted in the record's format, blanks where it is absent (R70). -/
def renderPrice (format : Format) (w : Nat) : Option Nat → Rendering
  | none => blanks w
  | some v => ⟨rightJustify w (priceCandidates format v), .shown⟩

/-- The sign of a change from the reference to the last price: "+" above, "-" below, nothing for none (R72, R74). -/
def signBytes (last reference : Nat) : List Byte :=
  if last > reference then [0x2B] else if last < reference then [0x2D] else []

/-- The magnitude of the net change (R71). -/
def changeMagnitude (last reference : Nat) : Nat := (last - reference) + (reference - last)

/-- The render outcome of a NET or PCT field follows the sign of the net change (R76). -/
def changeOutcome (last reference : Nat) : RenderOutcome :=
  if last > reference then .positive else if last < reference then .negative else .zero

/-- The candidates of a NET text: "UNCH" or "0" for no change (R71), else the sign before each candidate of the magnitude's
price text (R72). -/
def netCandidates (format : Format) (last reference w : Nat) : List (List Byte) :=
  if last = reference then [if 4 ≤ w then [0x55, 0x4E, 0x43, 0x48] else [0x30]]
  else (priceCandidates format (changeMagnitude last reference)).map (fun t => signBytes last reference ++ t)

/-- The percent's magnitude in hundredths, halves away from zero, before the clamp (R73). -/
def percentMagnitude (last reference : Nat) : Nat :=
  (2 * changeMagnitude last reference * 10000 + reference) / (2 * reference)

/-- The candidates of a PCT text for a sign and a magnitude m: clamped at 99,999 hundredths with the suffix ">" (R74), then
shortened by R75. A magnitude of 0 has no sign. -/
def percentCandidates (sign : List Byte) (m : Nat) : List (List Byte) :=
  let p := min m 99999
  let sg := if p = 0 then [] else sign
  [ sg ++ decText 2 p ++ [if 99999 < m then 0x3E else 0x25],
    sg ++ decText 2 p,
    sg ++ decText 1 (min ((p + 5) / 10) 9999),
    sg ++ decText 0 (min ((p + 50) / 100) 999) ]

/-- The candidates of a VOL text (R77). -/
def volumeCandidates (v : Nat) : List (List Byte) :=
  [ decimal v,
    decimal ((v + 500) / 1000) ++ [0x4B],
    decimal ((v + 500000) / 1000000) ++ [0x4D],
    decimal ((v + 500000000) / 1000000000) ++ [0x42] ]

/-- NET (R71, R72). -/
def renderNet (q : Quote) (w : Nat) : Rendering :=
  match q.last, q.reference with
  | some last, some reference =>
    ⟨rightJustify w (netCandidates q.format last reference w), changeOutcome last reference⟩
  | _, _ => blanks w

/-- PCT; blank for a reference of 0 (R73 to R75). -/
def renderPct (q : Quote) (w : Nat) : Rendering :=
  match q.last, q.reference with
  | some last, some reference =>
    if reference = 0 then blanks w
    else
      ⟨rightJustify w (percentCandidates (signBytes last reference) (percentMagnitude last reference)),
        changeOutcome last reference⟩
  | _, _ => blanks w

/-- One field's text and outcome, from the record of its slot (any record, for TEXT) and the entry's text (R59, R61). -/
def render (item : Item) (q : Quote) (text : List Byte) (w : Nat) : Rendering :=
  match item with
  | .text => ⟨leftJustify w text, .shown⟩
  | .sym => if q.state = .empty then blanks w else ⟨leftJustify w q.symbol, .shown⟩
  | .last => if q.state = .empty then blanks w else renderPrice q.format w q.last
  | .net => if q.state = .empty then blanks w else renderNet q w
  | .pct => if q.state = .empty then blanks w else renderPct q w
  | .bid => if q.state = .empty then blanks w else renderPrice q.format w q.bid
  | .ask => if q.state = .empty then blanks w else renderPrice q.format w q.ask
  | .high => if q.state = .empty then blanks w else renderPrice q.format w q.high
  | .low => if q.state = .empty then blanks w else renderPrice q.format w q.low
  | .vol => if q.state = .empty then blanks w else ⟨rightJustify w (volumeCandidates q.volume), .shown⟩

/-- The compact size text of a print: the VOL rule at a width of 5, without the leading spaces (R80). -/
def compactSize (size : Nat) : List Byte := (rightJustify 5 (volumeCandidates size)).text

end Sys2Proof.Machine
end

