-- ==== Sys2Proof/Machine/Tape.lean ====
section
/-! DEFINITION. The Tape Unit (Chapter 9): prints, host text, the frame-start work, and TAPETEXT and TAPESPEED. -/

namespace Sys2Proof.Machine

open Sys2Proof

/-- Three spaces, which keep items apart on the tape (R156, R158). -/
def tapeGap : List Byte := [0x20, 0x20, 0x20]

/-- The arrow of a direction (R156). -/
def arrow : Direction → List Byte
  | .up => [0x18] | .down => [0x19] | .none => []

/-- The characters of a print, from the record as the whole tick has left it, the LAST item's size and the depth found at
the enqueue (R156). -/
def printText (q : Quote) (size depth : Nat) : List Byte :=
  q.symbol ++ [0x20] ++ naturalPrice q.format (q.last.getD 0) ++ arrow q.direction
    ++ (if 0 < size ∧ depth < 32 then (0x20 : Byte) :: compactSize size else []) ++ tapeGap

/-- The Tape Unit takes a print: with or without its size by the depth found, or dropped with LATE set (R157). -/
def Tape.enqueuePrint (q : Quote) (size : Nat) (t : Tape) : Tape :=
  if t.queue.length < Config.tapeCapacity then
    { t with queue := t.queue ++ [printText q size t.queue.length] }
  else { t with late := true }

/-- Quote Intake offers the print of an applied tick: made when the tick carried TAPE and a LAST item and a band shows TAPE
(R44, R157). -/
def State.offerPrint (slot : Slot) (tape : Bool) (items : TickItems) (s : State) : State :=
  match items.last with
  | some (_, size) =>
    if tape = true ∧ s.tapeShown = true then { s with tape := s.tape.enqueuePrint (s.records.get slot) size } else s
  | none => s

/-- TAPETEXT after its length and range checks: BAD_STATE without a tape band, FULL with LATE set at 64 items, else the
text and three spaces join the queue (R158). -/
def tapetextWork (text : List Byte) (s : State) : State :=
  if s.tapeShown = false then s.reject Kind.tapetext .badState
  else if s.tape.queue.length < Config.tapeCapacity then
    { s with tape := { s.tape with queue := s.tape.queue ++ [text ++ tapeGap] } }.ack Kind.tapetext (s.tape.queue.length + 1)
  else { s with tape := { s.tape with late := true } }.reject Kind.tapetext .full

/-- TAPETEXT (R158). -/
def execTapetext (s : State) : Host.Outcome State Fault Refusal := request Kind.tapetext parseTapetext tapetextWork s

/-- TAPESPEED: the speed clamped into 1..4 (R163). -/
def execTapespeed (s : State) : Host.Outcome State Fault Refusal :=
  request Kind.tapespeed (oneClamped 1 4)
    (fun speed t => { t with tape := { t.tape with baseSpeed := speed } }.ack Kind.tapespeed speed) s

/-- The effective speed for a depth (R163). -/
def effectiveSpeed (base depth : Nat) : Nat := if depth ≤ 15 then base else if depth ≤ 47 then base + 2 else base + 4

/-- The first step of the frame-start work: the offset increases by the speed, and for each 10 dots the head leaves the ring;
an empty ring loses no character (R161). -/
def Tape.advance (speed : Nat) (t : Tape) : Tape :=
  { t with ring := t.ring.drop ((t.offset + speed) / 10), offset := (t.offset + speed) % 10 }

/-- Whole items move from the queue into the ring while they fit; a removal that brings the depth below 16 clears LATE
(R159, R162). Answers the queue, the ring and the flag. -/
def moveItems : List (List Byte) → List Byte → Bool → List (List Byte) × List Byte × Bool
  | [], ring, late => ([], ring, late)
  | item :: rest, ring, late =>
    if ring.length + item.length ≤ Config.ringCapacity then
      moveItems rest (ring ++ item) (if rest.length < 16 then false else late)
    else (item :: rest, ring, late)

/-- Spaces up to the window's 97 characters (R162). -/
def padRing (ring : List Byte) : List Byte := ring ++ List.replicate (Config.windowLength - ring.length) 0x20

/-- The second and third steps of the frame-start work (R162). -/
def Tape.refill (t : Tape) : Tape :=
  let ring := if t.ring = [] then padRing [] else t.ring
  let moved := moveItems t.queue ring t.late
  { t with
    queue := moved.1
    ring := if moved.1 = [] then padRing moved.2.1 else moved.2.1
    late := moved.2.2 }

/-- The Tape Unit's frame-start work while a band shows TAPE; the depth and base speed are read before the first step
(R161, R162). -/
def Tape.frameStart (t : Tape) : Tape := (t.advance (effectiveSpeed t.baseSpeed t.queue.length)).refill

end Sys2Proof.Machine
end

