-- ==== Sys2Proof/Machine/Intake.lean ====
section
/-! DEFINITION. Quote Intake (Chapter 3): TICK, RELEASE, DISCARD, HEARTBEAT, WATCH, and the Feed Watch's expiry. -/

namespace Sys2Proof.Machine

open Sys2Proof

/-- A tick is applied to its slot's record, and its print is then offered (R43, R44). -/
def State.applyAndPrint (slot : Slot) (tape : Bool) (items : TickItems) (s : State) : State :=
  (s.applyTick slot items).offerPrint slot tape items

/-- The disposal of a hit: applied at once, staged, or refused with STAGE_FULL (R41, R43, R46). -/
def State.disposeHit (slot : Slot) (r : TickReq) (s : State) : State :=
  if r.hold = false then s.applyAndPrint slot r.tape r.items
  else if s.intake.staging.length < Config.stagingCapacity then
    { s with intake := { s.intake with staging := s.intake.staging ++ [⟨slot, r.tape, r.items⟩] } }
  else s.reject Kind.tick .stageFull

/-- A well-formed TICK: the reload, the lookup, and the disposal (R41, R42). -/
def tickWork (r : TickReq) (s : State) : State :=
  let t := s.reloadFeed
  match t.directory.find r.venue r.code with
  | some (_, e) => t.disposeHit e.slot r
  | none => { t with directory := t.directory.offerMiss r.venue r.code }

/-- TICK (R39, R41). -/
def execTick (s : State) : Host.Outcome State Fault Refusal := request Kind.tick parseTick tickWork s

/-- Staged entries in turn: skipped where the record is EMPTY, else applied and counted (R48). Answers the count and the
state. -/
def releaseEntries : List Staged → Nat → State → Nat × State
  | [], applied, s => (applied, s)
  | e :: rest, applied, s =>
    if (s.records.get e.slot).state = .empty then releaseEntries rest applied s
    else releaseEntries rest (applied + 1) (s.applyAndPrint e.slot e.tape e.items)

/-- The end of a RELEASE: the list is emptied, and the ACK carries the number applied (R48). -/
def State.endRelease (applied : Nat) (s : State) : State :=
  { s with carrying := .idle, intake := { s.intake with staging := [] } }.ack Kind.release applied

/-- A RELEASE deals with at most `n` more entries; it ends when none is left and no marks are still to come (R48, R50, R60). -/
def continueRelease (n dealt applied : Nat) (s : State) : State :=
  if s.intake.staging.length ≤ dealt then s.settled.endRelease applied
  else
    let done := releaseEntries ((s.intake.staging.drop dealt).take n) applied s
    if s.intake.staging.length ≤ dealt + n ∧ done.2.owed = none then done.2.endRelease done.1
    else { done.2 with carrying := .release (dealt + n) done.1 }

/-- RELEASE: the request is taken and begun, or the one being carried out goes on (R48, R50). -/
def execRelease (n : Nat) (s : State) : Host.Outcome State Fault Refusal :=
  match s.carrying with
  | .release dealt applied => .next (continueRelease n dealt applied s)
  | .idle => request Kind.release noFields (fun _ => continueRelease n 0 0) s
  | .answering _ => request Kind.release noFields (fun _ => continueRelease n 0 0) s
  | .status _ _ => .next s.settled

/-- DISCARD (R49). -/
def execDiscard (s : State) : Host.Outcome State Fault Refusal :=
  request Kind.discard noFields
    (fun _ t => { t with intake := { t.intake with staging := [] } }.ack Kind.discard t.intake.staging.length) s

/-- HEARTBEAT (R55). -/
def execHeartbeat (s : State) : Host.Outcome State Fault Refusal :=
  request Kind.heartbeat noFields (fun _ t => t.reloadFeed.ack Kind.heartbeat t.reloadFeed.intake.watch.code) s

/-- WATCH after its check: arms the watch, or sets its period and reloads with it, with the recovery of a STALE watch
(R54, R57). -/
def watchWork (period : Nat) (s : State) : State :=
  (match s.intake.watch with
    | .off => s.setWatch (.fresh period period)
    | .fresh _ remaining => (s.setWatch (.fresh period remaining)).reloadFeed
    | .stale _ => (s.setWatch (.stale period)).reloadFeed).ack Kind.watch period

/-- WATCH (R54). -/
def execWatch (s : State) : Host.Outcome State Fault Refusal := request Kind.watch (oneClamped 1 63) watchWork s

/-- The remaining time reaches zero in FRESH: the watch becomes STALE, with the effects of R57; in OFF and in STALE no
countdown runs, and nothing happens (R56). -/
def State.expire (s : State) : State :=
  match s.intake.watch with
  | .fresh period _ => (s.setWatch (.stale period)).feedChanged
  | .off => s
  | .stale _ => s

/-- FEED_WATCH_EXPIRY (R56). -/
def execFeedWatchExpiry (s : State) : Host.Outcome State Fault Refusal := .next s.settled.expire

end Sys2Proof.Machine
end

