-- ==== Sys2Proof/Machine/Link.lean ====
section
/-! DEFINITION. The Link Interface (Chapter 10): the pins and resets, the receiver, the Outbound Queue's arbiter, the frames of
its records, UNKNOWN_KIND and STATUS. -/

namespace Sys2Proof.Machine

open Sys2Proof

/-- The Link Interface is written. -/
def State.setLink (l : Link) (s : State) : State := { s with link := l }

/-! ### Resets (R168, R179, R180) -/

/-- RESET_N_ASSERTED: at once, wherever any block stands (R179). -/
def execResetNAsserted (s : State) : Host.Outcome State Fault Refusal := .next (s.resetBlocks .pin .held)

/-- RESET_N_RELEASED: the straps are read and initialisation begins (R168, R180). A pin that is high already is not released. -/
def execResetNReleased (rate1 rate0 : Bool) (s : State) : Host.Outcome State Fault Refusal :=
  if s.link.phase = .held then
    .next (s.setLink { s.link with straps := ⟨rate1, rate0⟩, phase := .initialising })
  else .next s

/-- INITIALISATION_END: the RESET_DONE notice, RDY, the receiver hunting (R180), and the Heat Scan's first interval (R105). -/
def execInitialisationEnd (s : State) : Host.Outcome State Fault Refusal :=
  if s.link.phase = .initialising then
    .next { s with
      link := { s.link with
        phase := .running
        receiver := .hunting
        outbound := s.link.outbound ++ [.resetDone s.link.cause] }
      colour := { s.colour with scan := { s.colour.scan with interval := some (25 * 2 ^ s.colour.scan.periodCode.val) } } }
  else .next s

/-- RESET: a payload is refused; otherwise every block is reset with cause MESSAGE and initialisation begins (R179, R180). -/
def execReset (s : State) : Host.Outcome State Fault Refusal :=
  request Kind.reset noFields (fun _ t => t.resetBlocks .message .initialising) s

/-- The rate of the link in baud for the straps (R168). -/
def Straps.baud : Straps → Nat
  | ⟨false, false⟩ => 115200
  | ⟨false, true⟩ => 230400
  | ⟨true, false⟩ => 460800
  | ⟨true, true⟩ => 921600

/-! ### The receiver (R170, R171) -/

/-- A complete frame joins the Inbound Queue, or is dropped as an OVERRUN event when the queue holds 8 frames (R171). -/
def Link.offerFrame (f : LinkFrame) (l : Link) : Link :=
  if l.inbound.length < Config.inboundCapacity then { l with inbound := l.inbound ++ [f] } else l.overrunEvent f.kind

/-- The kind of a frame being gathered: its KIND byte if it has been received, and 00h otherwise (R170). -/
def gatheredKind : List Byte → Byte
  | _ :: kind :: _ => kind
  | _ => 0x00

/-- A frame being gathered is discarded: a BAD_FRAME event, and the receiver hunts (R170). -/
def Link.discardFrame (got : List Byte) (l : Link) : Link :=
  { l.badFrameEvent (gatheredKind got) with receiver := .hunting }

/-- The sum of LEN, KIND, payload and CHECK is 0 modulo 256 (R169). -/
def goodSum (got : List Byte) : Bool := decide ((got.map (fun b => b.toNat)).sum % 256 = 0)

/-- The bytes gathered hold LEN, KIND, LEN payload bytes and CHECK (R169). -/
def isWhole (got : List Byte) : Bool := decide (got.length = fieldAt got 0 1 + 3)

/-- The frame of the whole bytes gathered (R169). -/
def gatheredFrame (got : List Byte) : LinkFrame := ⟨gatheredKind got, (got.drop 2).take (fieldAt got 0 1)⟩

/-- A byte joins the frame being gathered: a LEN above 248 discards it, CHECK completes or discards it (R170). -/
def Link.gather (got : List Byte) (l : Link) : Link :=
  if Config.maxLen < fieldAt got 0 1 then l.discardFrame got
  else if isWhole got then
    if goodSum got then { l.offerFrame (gatheredFrame got) with receiver := .hunting } else l.discardFrame got
  else { l with receiver := .gathering got }

/-- A character on RXD (R168, R170). -/
def Link.receive (byte : Byte) (stopHigh : Bool) (l : Link) : Link :=
  match l.receiver with
  | .hunting => if stopHigh = true ∧ byte = Config.sync then { l with receiver := .gathering [] } else l
  | .gathering got => if stopHigh then l.gather (got ++ [byte]) else l.discardFrame got

/-- RXD_CHARACTER: the receiver ignores RXD while the part is held in reset or initialises (R179, R180). -/
def execRxdCharacter (byte : Byte) (stopHigh : Bool) (s : State) : Host.Outcome State Fault Refusal :=
  if s.link.phase = .running then .next (s.setLink (s.link.receive byte stopHigh)) else .next s

/-- FRAME_GAP_TIMEOUT: a frame being gathered is discarded (R170). -/
def execFrameGapTimeout (s : State) : Host.Outcome State Fault Refusal :=
  match s.link.receiver with
  | .gathering got => .next (s.setLink (s.link.discardFrame got))
  | .hunting => .next s

/-! ### The Outbound Queue (R175, R176) -/

/-- RECORD_SENT: the record at the head is removed (R175). -/
def execRecordSent (s : State) : Host.Outcome State Fault Refusal :=
  .next (s.setLink { s.link with outbound := s.link.outbound.tail })

/-- BAD_FRAME_ADMISSION (R176). -/
def execBadFrameAdmission (s : State) : Host.Outcome State Fault Refusal :=
  match s.link.admits, s.link.badFrame with
  | true, some kind => .next ((s.setLink { s.link with badFrame := none }).place (.reject kind .badFrame)).admissionMade
  | _, _ => .next s

/-- OVERRUN_ADMISSION, with no BAD_FRAME waiting (R176). -/
def execOverrunAdmission (s : State) : Host.Outcome State Fault Refusal :=
  match s.link.admits, s.link.badFrame, s.link.overrun with
  | true, none, some kind => .next ((s.setLink { s.link with overrun := none }).place (.reject kind .overrun)).admissionMade
  | _, _, _ => .next s

/-- FEED_NOTICE, with neither latched REJECT waiting; the notice carries the feed state of this moment (R176). -/
def execFeedNotice (s : State) : Host.Outcome State Fault Refusal :=
  match s.link.admits, s.link.badFrame, s.link.overrun, s.link.feedLatch with
  | true, none, none, true =>
    .next ((s.setLink { s.link with feedLatch := false }).place (.feed s.intake.watch.code)).admissionMade
  | _, _, _, _ => .next s

/-- The oldest un-notified record of the Miss List (R34). -/
def Directory.oldestUnnotified (d : Directory) : Option Miss := d.misses.find? (fun m => !m.notified)

/-- The notified mark of the oldest un-notified record is set (R34). -/
def markNotified : List Miss → List Miss
  | [] => []
  | m :: rest => if m.notified then m :: markNotified rest else { m with notified := true } :: rest

/-- MISS_NOTICE, with no earlier class waiting (R34, R176). -/
def execMissNotice (s : State) : Host.Outcome State Fault Refusal :=
  match s.link.admits, s.link.badFrame, s.link.overrun, s.link.feedLatch, s.directory.oldestUnnotified with
  | true, none, none, false, some m =>
    .next ({ s with directory :=
        { s.directory with misses := markNotified s.directory.misses } }.place (.miss m.venue m.code)).admissionMade
  | _, _, _, _, _ => .next s

/-! ### UNKNOWN_KIND and STATUS (R173, R178) -/

/-- UNKNOWN_KIND: the frame at the head is taken and refused, whatever its payload (R173). -/
def execUnknownKind (s : State) : Host.Outcome State Fault Refusal :=
  match s.ready.headFrame with
  | some f => if f.kind ∈ Kind.requests then .next s.ready else .next (s.ready.takeHead.reject f.kind .unknownKind)
  | none => .next s.ready

/-- One of the eleven reads of a STATUS, numbered from 0 in the order of the reply's fields (R178). The inbound depth counts the frames
behind the STATUS, at most 7 (R171). -/
def readStatus (s : State) (n : Nat) (r : StatusReply) : StatusReply :=
  match n with
  | 0 => { r with cause := s.link.cause.code }
  | 1 => { r with feed := s.intake.watch.code }
  | 2 => { r with staging := s.intake.staging.length }
  | 3 => { r with misses := s.directory.misses.length }
  | 4 => { r with overflow := flagBit s.directory.overflow }
  | 5 => { r with dirty := s.painter.dirty.length }
  | 6 => { r with tape := s.tape.queue.length }
  | 7 => { r with late := flagBit s.tape.late }
  | 8 => { r with inbound := min s.link.inbound.length 7 }
  | 9 => { r with budget := s.painter.budget }
  | 10 => { r with flashHeat := s.colour.flashHeat }
  | _ => r

/-- The reads a STATUS makes. -/
def statusReads : Nat := 11

/-- The reply before any read. -/
def StatusReply.blank : StatusReply := ⟨0, 0, 0, 0, 0, 0, 0, 0, 0, 0, 0⟩

/-- A STATUS makes at most `n` more reads; when all are made the reply is placed (R178). That the reads are made in the order
of the reply's fields is the model's choice (assumption log 21). -/
def continueStatus (n done : Nat) (r : StatusReply) (s : State) : State :=
  let reply := (List.range' done (min n (statusReads - done))).foldl (fun acc k => readStatus s k acc) r
  if statusReads ≤ done + n then { s with carrying := .idle }.reply (.status reply)
  else { s with carrying := .status (done + n) reply }

/-- STATUS: the request is taken and begun, or the one being carried out goes on (R178). -/
def execStatus (n : Nat) (s : State) : Host.Outcome State Fault Refusal :=
  match s.carrying with
  | .status done r => .next (continueStatus n done r s.settled)
  | .idle => request Kind.status noFields (fun _ => continueStatus n 0 StatusReply.blank) s
  | .answering _ => request Kind.status noFields (fun _ => continueStatus n 0 StatusReply.blank) s
  | .release _ _ => .next s.settled

/-! ### What is sent (R169, section 10.6, section 10.7) -/

/-- A list of bytes followed by spaces up to a length. -/
def padSpaces (n : Nat) (bs : List Byte) : List Byte := bs ++ List.replicate (n - bs.length) 0x20

/-- A price of a QUOTE: 0 where it is absent (section 10.7). -/
def priceBytes (p : Option Nat) : List Byte := beBytes 4 (p.getD 0)

/-- The presence byte of a QUOTE (section 10.7). -/
def presence (q : Quote) : Nat :=
  flagBit q.last.isSome + 2 * flagBit q.reference.isSome + 4 * flagBit q.bid.isSome + 8 * flagBit q.ask.isSome
    + 16 * flagBit q.high.isSome + 32 * flagBit q.low.isSome

/-- The payload of a QUOTE (section 10.7). -/
def quotePayload (slot : Slot) (q : Quote) : List Byte :=
  beBytes 2 slot.val ++ beBytes 1 q.state.code ++ beBytes 1 q.format.code ++ beBytes 1 q.symbol.length
    ++ padSpaces 8 q.symbol ++ beBytes 1 (presence q) ++ priceBytes q.last ++ priceBytes q.reference ++ priceBytes q.bid
    ++ priceBytes q.ask ++ priceBytes q.high ++ priceBytes q.low ++ beBytes 4 q.volume ++ beBytes 1 q.heat
    ++ beBytes 1 q.direction.code

/-- The payload of a STATUS reply (R178). -/
def statusPayload (r : StatusReply) : List Byte :=
  beBytes 1 r.cause ++ beBytes 1 r.feed ++ beBytes 1 r.staging ++ beBytes 1 r.misses ++ beBytes 1 r.overflow
    ++ beBytes 2 r.dirty ++ beBytes 1 r.tape ++ beBytes 1 r.late ++ beBytes 1 r.inbound ++ beBytes 1 r.budget
    ++ beBytes 1 r.flashHeat

/-- The payload of a DENTRY (R29). -/
def dentryPayload (r : DentryReply) : List Byte :=
  beBytes 1 (flagBit r.found) ++ beBytes 2 r.index ++ beBytes 1 r.venue ++ beBytes 1 (flagBit r.any)
    ++ beBytes 4 r.code.toNat ++ beBytes 2 r.slot

/-- The payload of a FIELD (R94). -/
def fieldPayload (r : FieldReply) : List Byte :=
  beBytes 1 (flagBit r.found) ++ beBytes 1 r.index ++ beBytes 1 r.state ++ beBytes 1 r.placement ++ beBytes 2 r.slot
    ++ beBytes 1 r.item ++ beBytes 1 r.row ++ beBytes 1 r.column ++ beBytes 1 r.width ++ beBytes 1 r.palette
    ++ beBytes 1 (flagBit r.steady) ++ beBytes 1 (flagBit r.dirty)
    ++ r.unpainted.flatMap (fun m => beBytes 1 (flagBit m)) ++ beBytes 1 r.text.length ++ padSpaces 16 r.text

/-- The KIND of a record's frame (section 10.6). -/
def Record.kindByte : Record → Byte
  | .ack _ _ => 0x40
  | .reject _ _ => 0x41
  | .status _ => 0x42
  | .quote _ _ => 0x43
  | .dentry _ => 0x44
  | .field _ => 0x45
  | .resetDone _ => 0x60
  | .miss _ _ => 0x61
  | .feed _ => 0x62

/-- The payload of a record's frame (section 10.6). -/
def Record.payload : Record → List Byte
  | .ack kind value => kind :: beBytes 2 value
  | .reject kind reason => kind :: beBytes 1 reason.code
  | .status r => statusPayload r
  | .quote slot q => quotePayload slot q
  | .dentry r => dentryPayload r
  | .field r => fieldPayload r
  | .resetDone cause => beBytes 1 cause.code
  | .miss venue code => beBytes 1 venue.val ++ beBytes 4 code.toNat
  | .feed code => beBytes 1 code

/-- CHECK makes the sum of LEN, KIND, payload and CHECK 0 modulo 256 (R169). -/
def checkByte (kind : Byte) (payload : List Byte) : Byte :=
  BitVec.ofNat 8 (256 - (payload.length + kind.toNat + (payload.map (fun b => b.toNat)).sum) % 256)

/-- A frame in either direction (R169). -/
def frameBytes (kind : Byte) (payload : List Byte) : List Byte :=
  Config.sync :: BitVec.ofNat 8 payload.length :: kind :: payload ++ [checkByte kind payload]

/-- The bytes the transmitter sends for a record (R175). -/
def Record.bytes (r : Record) : List Byte := frameBytes r.kindByte r.payload

/-- The frame the transmitter is sending: that of the record at the head; none while TXD rests high (R168, R175). -/
def State.sending (s : State) : Option (List Byte) := s.link.outbound.head?.map Record.bytes

end Sys2Proof.Machine
end

