-- ==== Sys2Proof/Machine/Colour.lean ====
section
/-! DEFINITION. The Colour Unit (Chapter 6): the Heat Scan's step, the decision of a field's class and its attributes, and
SETATTR, SETPAL and HEATCFG. -/

namespace Sys2Proof.Machine

open Sys2Proof

/-! ### Heat (R103, R105, R106) -/

/-- The four heat bands (R103). -/
inductive HeatBand where
  | steady | warm | hot | flash
  deriving DecidableEq, Repr

/-- The band of a heat (R103). -/
def heatBand (heat : Nat) : HeatBand :=
  if heat = 0 then .steady else if heat ≤ 5 then .warm else if heat ≤ 11 then .hot else .flash

/-- The time between two steps, in microseconds (R105). -/
def scanPeriod (code : Fin 8) : Nat := 25 * 2 ^ code.val

/-- The number of slots the scan walks through (R105). -/
def scanLimit (code : Fin 4) : Nat := 64 * 2 ^ code.val

/-- The position after a step: one on, and from limit − 1 back to 0 (R106). -/
def nextPosition (position : Slot) (limit : Nat) : Slot :=
  if position.val + 1 < limit then Fin.ofNat 512 (position.val + 1) else 0

/-- The Heat Scan is written. -/
def State.setScan (scan : HeatScan) (s : State) : State := { s with colour := { s.colour with scan := scan } }

/-- The visit of a step to the record at its position: a record that is not EMPTY and has heat loses one, and when that crosses a
heat band the scan hands the Field Map a mark request for the slot and LAST (R106, R109). -/
def State.visit (slot : Slot) (s : State) : State :=
  let q := s.records.get slot
  if q.state = .empty ∨ q.heat = 0 then s
  else
    let t : State := { s with records := s.records.set slot { q with heat := q.heat - 1 } }
    if heatBand (q.heat - 1) = heatBand q.heat then t else t.handOver (.lookups slot [.last])

/-- One step of the Heat Scan: the visit, the position's advance, and the interval loaded with the period again, where the interval
runs: not while disabled, held in reset or initialising (R105, R106, R179, R180). -/
def State.scanStep (s : State) : State :=
  if s.link.phase = .running ∧ s.colour.scan.enabled = true then
    let t := s.visit s.colour.scan.position
    t.setScan { t.colour.scan with
      position := nextPosition s.colour.scan.position (scanLimit s.colour.scan.limitCode)
      interval := some (scanPeriod s.colour.scan.periodCode) }
  else s

/-- HEAT_SCAN_STEP (R106). -/
def execHeatScanStep (s : State) : Host.Outcome State Fault Refusal := .next s.settled.scanStep

/-- The scan after a HEATCFG: the position set to 0 where it would lie at or beyond the new limit, the interval restarted where
the enable or the period code changes (R107, R108). -/
def reconfigure (r : HeatReq) (scan : HeatScan) : HeatScan where
  position := if scanLimit r.limitCode ≤ scan.position.val then 0 else scan.position
  enabled := r.enabled
  periodCode := r.periodCode
  limitCode := r.limitCode
  interval :=
    if r.enabled = scan.enabled ∧ r.periodCode = scan.periodCode then scan.interval
    else if r.enabled then some (scanPeriod r.periodCode) else none

/-- HEATCFG after its checks (R107). -/
def heatcfgWork (r : HeatReq) (s : State) : State :=
  { s with colour := { s.colour with scan := reconfigure r s.colour.scan, flashHeat := r.flashHeat } }.ack
    Kind.heatcfg r.flashHeat

/-- HEATCFG (R107). -/
def execHeatcfg (s : State) : Host.Outcome State Fault Refusal := request Kind.heatcfg parseHeatcfg heatcfgWork s

/-! ### Classes and attributes (R111 to R115) -/

/-- The class of a LAST field by heat and direction (R112). -/
def lastClass (steady : Bool) (q : Quote) : Class :=
  if steady then .neutral
  else
    match heatBand q.heat, q.direction with
    | .steady, _ => .neutral
    | _, .none => .neutral
    | .warm, .up => .up1
    | .hot, .up => .up2
    | .flash, .up => .up3
    | .warm, .down => .dn1
    | .hot, .down => .dn2
    | .flash, .down => .dn3

/-- The class of a NET or PCT field by its render outcome (R113). -/
def changeClass : RenderOutcome → Class
  | .positive => .pos
  | .negative => .neg
  | .zero => .unch
  | .blank => .neutral
  | .shown => .neutral

/-- Whether the Feed Watch is STALE. -/
def FeedWatch.isStale : FeedWatch → Bool
  | .stale _ => true
  | .off => false
  | .fresh _ _ => false

/-- The class of a field: the seven tests of R111, in order. -/
def classOf (item : Item) (steady : Bool) (q : Quote) (outcome : RenderOutcome) (stale : Bool) : Class :=
  match item with
  | .text => .label
  | .sym => if q.state = .halted then .halt else .label
  | .last => if stale then .stale else if q.state = .halted then .halt else lastClass steady q
  | .net => if stale then .stale else if q.state = .halted then .halt else changeClass outcome
  | .pct => if stale then .stale else if q.state = .halted then .halt else changeClass outcome
  | .bid => if stale then .stale else .neutral
  | .ask => if stale then .stale else .neutral
  | .high => if stale then .stale else .neutral
  | .low => if stale then .stale else .neutral
  | .vol => if stale then .stale else .neutral

/-- A palette set's attribute for a class (R115). -/
def ColourUnit.resolve (c : ColourUnit) (palette : SetIx) (cls : Class) : AttrIx := (c.palettes.get palette).get cls.index

/-! ### SETPAL and SETATTR (R116, R120) -/

/-- SETPAL after its checks: one palette entry is written, and the sweep of its set follows, with the ACK at its end
(R116, R117). -/
def setpalWork (r : SetIx × Fin 14 × AttrIx) (s : State) : State :=
  { s with colour := { s.colour with palettes := s.colour.palettes.modify r.1 (fun p => p.set r.2.1 r.2.2) } }.handOver
    (.sweep r.1 r.2.2)

/-- SETPAL (R116). -/
def execSetpal (s : State) : Host.Outcome State Fault Refusal := request Kind.setpal parseSetpal setpalWork s

/-- SETATTR (R120). -/
def execSetattr (s : State) : Host.Outcome State Fault Refusal :=
  request Kind.setattr parseSetattr
    (fun r t => { t with colour := { t.colour with attrs := t.colour.attrs.set r.1 r.2 } }.ack Kind.setattr r.1.val) s

end Sys2Proof.Machine
end

