-- ==== Sys2Proof/Machine/Painter.lean ====
section
/-! DEFINITION. The Painter (Chapter 7): PAINT, and the three steps of its frame-start work: band clears, takings with their
renders and erases, and the curtain release. -/

namespace Sys2Proof.Machine

open Sys2Proof

/-- PAINT: the budget clamped into 1..64 (R126). -/
def execPaint (s : State) : Host.Outcome State Fault Refusal :=
  request Kind.paint (oneClamped 1 64)
    (fun budget t => { t with painter := { t.painter with budget := budget } }.ack Kind.paint budget) s

/-- The Cell Store is written. -/
def State.setCells (c : CellStore) (s : State) : State := { s with painter := { s.painter with cells := c } }

/-! ### Where the work stands (R127) -/

/-- The bands of the third step, where the first two steps are finished or may have been (R127, R129; assumption log 10). -/
def State.releaseLooks (s : State) : Option (Table 4 Look) :=
  match s.painter.work with
  | .idle => none
  | .clearing _ passed => passed
  | .taking _ _ => none
  | .releasing looks => some looks

/-- No frame-start work of the Painter is under way, or all of it is done or may have been (R127; assumption log 10). -/
def State.workDone (s : State) : Bool :=
  match s.painter.work, s.releaseLooks with
  | .idle, _ => true
  | _, some looks => allDone looks s.bands openable
  | _, none => false

/-! ### Band clears (R128) -/

/-- The clear of a band: its rows filled with background, its clear pending cleared, and its LIVE entries swept (R128). -/
def State.clearBand (k : BandIx) (s : State) : State :=
  let b := s.bands.get k
  let t := (s.setCells (s.painter.cells.fillRows b.top b.height (Cell.blank b.background))).modifyBand k
    (fun x => { x with clearPending := false })
  match b.shows with
  | .board _ => t.sweepBand k
  | .nothing => t
  | .tape => t

/-- The first step of the work for band k: the clear, once for each band whose clear pending it finds set (R128). -/
def State.clearStep (k : BandIx) (s : State) : State :=
  match s.painter.work with
  | .clearing looks _ =>
    if looks.get k ≠ .looked ∧ (s.bands.get k).clearPending = true then
      ((s.clearBand k).setWork (.clearing (looks.set k .looked) none)).updateWork
    else s
  | .idle => s
  | .taking _ _ => s
  | .releasing _ => s

/-- BAND_CLEAR of band k (R128). -/
def execBandClear (k : BandIx) (s : State) : Host.Outcome State Fault Refusal := .next (s.settled.clearStep k)

/-! ### Takings (R129 to R131) -/

/-- The record an entry shows; a TEXT entry reads none, and any record stands for it (R79). -/
def State.recordOf (s : State) (f : Field) : Quote :=
  match f.slot with
  | some slot => s.records.get slot
  | none => Quote.empty

/-- What the Formatter makes of an entry (R130). -/
def State.rendering (s : State) (f : Field) : Rendering := render f.item (s.recordOf f) f.text f.width

/-- The class the Colour Unit decides for an entry (R111, R130). -/
def State.fieldClass (s : State) (f : Field) : Class :=
  classOf f.item f.steady (s.recordOf f) (s.rendering f).outcome s.intake.watch.isStale

/-- The characters of an entry with their attributes: the text in the field attribute, the positions that justification added
in the fill attribute (R115, R130). -/
def State.fieldChars (s : State) (f : Field) : List (Byte × AttrIx) :=
  let fitted := (s.rendering f).fitted
  let fill := s.colour.resolve f.palette .back
  List.replicate fitted.lead (0x20, fill)
    ++ fitted.text.map (fun c => (c, s.colour.resolve f.palette (s.fieldClass f)))
    ++ List.replicate fitted.trail (0x20, fill)

/-- An entry's characters are written into band k if it appears there, and its unpainted mark for it is cleared (R130). -/
def State.writeInto (i : EntryIx) (chars : List (Byte × AttrIx)) (s : State) (k : BandIx) : State :=
  let f := s.fields.get i
  let b := s.bands.get k
  if appearsIn f b = true then
    (s.setCells (s.painter.cells.writeAll (fieldCells b f.row f.column chars))).clearUnpainted i k
  else s

/-- To render a LIVE entry: its text and attributes formed once, and written into every band it appears in (R130). -/
def State.renderEntry (i : EntryIx) (s : State) : State :=
  allBands.foldl (State.writeInto i (s.fieldChars (s.fields.get i))) s

/-- The cells of an entry in a band, blanked in the band's background (R131). -/
def erasedCells (b : Band) (f : Field) : List (Nat × Nat × Cell) :=
  (fieldCells b f.row f.column (List.replicate f.width (0x20, b.background))).map
    (fun x => (x.1, x.2.1, Cell.blank b.background))

/-- An entry's cells are blanked in band k if it appears there (R131). -/
def State.eraseFrom (f : Field) (s : State) (k : BandIx) : State :=
  if appearsIn f (s.bands.get k) = true then
    s.setCells (s.painter.cells.writeAll (erasedCells (s.bands.get k) f))
  else s

/-- The entry becomes FREE after it has left the Dirty List (R129, R131). -/
def State.makeFree (i : EntryIx) (s : State) : State := { s with fields := s.fields.set i Field.free }

/-- To erase an ERASING entry in every band it appears in, and free it (R131). -/
def State.eraseCells (i : EntryIx) (s : State) : State :=
  (allBands.foldl (State.eraseFrom (s.fields.get i)) s).makeFree i

/-- The taking of the head index out of the Dirty List: its dirty mark is cleared (R123, R129). -/
def State.unqueue (i : EntryIx) (rest : List EntryIx) (s : State) : State :=
  { s with
    fields := s.fields.modify i (fun f => { f with dirty := false })
    painter := { s.painter with dirty := rest } }

/-- What is done with the entry taken, and whether it is counted: the table of R129. -/
def State.dealWith (i : EntryIx) (s : State) : State × Nat :=
  let f := s.fields.get i
  match f.state, appears s.bands f with
  | .live, true => (s.renderEntry i, 1)
  | .live, false => (s, 0)
  | .erasing, true => (s.eraseCells i, 1)
  | .erasing, false => (s.makeFree i, 0)
  | .free, _ => (s, 0)

/-- The second step takes the entry at the head, where the budget is not counted and the list not empty. What a request that falls
between two takings appends is taken in its turn, an entry painted already included (R123, R127, R129; assumption log 20). -/
def State.takeEntry (budget counted : Nat) (s : State) : State :=
  match s.painter.dirty with
  | [] => s.setWork (.taking budget counted)
  | i :: rest =>
    if budget ≤ counted then s.setWork (.taking budget counted)
    else
      let dealt := (s.unqueue i rest).dealWith i
      dealt.1.setWork (.taking budget (counted + dealt.2))

/-- One taking, and the end of the second step where the budget is then counted or the list empty (R129). -/
def State.takeOne (budget counted : Nat) (s : State) : State := (s.takeEntry budget counted).updateWork

/-- TAKING: the second step begins, with the budget read, once the first is finished (R125, R127, R129). Marks still to come stay so,
since a taking may fall before them (R60, R109, R117; assumption log 22). -/
def execTaking (s : State) : Host.Outcome State Fault Refusal :=
  match s.painter.work with
  | .clearing looks _ => if clearsDone looks s.bands = true then .next (s.takeOne s.painter.budget 0) else .next s
  | .taking budget counted => .next (s.takeOne budget counted)
  | .idle => .next s
  | .releasing _ => .next s

/-! ### The curtain release (R132) -/

/-- The third step of the work for band k (R132). -/
def State.releaseStep (k : BandIx) (s : State) : State :=
  match s.releaseLooks with
  | some looks =>
    if looks.get k ≠ .looked ∧ openable (s.bands.get k) = true then
      (s.modifyBand k (fun b => { b with curtain := .opened })).setWork (.releasing (looks.set k .looked))
    else s
  | none => s

/-- CURTAIN_RELEASE of band k (R132). -/
def execCurtainRelease (k : BandIx) (s : State) : Host.Outcome State Fault Refusal := .next (s.settled.releaseStep k)

end Sys2Proof.Machine
end

