-- ==== Sys2Proof/Machine/Raster.lean ====
section
/-! DEFINITION. The Raster (Chapter 8): the frame start, the reading at the first active line, and the video outputs of every
line and dot of a frame as a function of the state. -/

namespace Sys2Proof.Machine

open Sys2Proof

/-! ### The frame start (R120, R134, R151, R153, R161) -/

/-- The blink count advances by 1; on reaching B the phase changes over and the count returns to 0 (R151). -/
def Raster.advanceBlink (r : Raster) : Raster :=
  if r.blinkCount + 1 < r.blinkPeriod then { r with blinkCount := r.blinkCount + 1 }
  else { r with blinkOn := !r.blinkOn, blinkCount := 0 }

/-- The Raster takes the Attribute Table and the blink phase (R120, R147, R151). -/
def Raster.takeAttrs (attrs : Table 16 Attr) (r : Raster) : Raster :=
  { r with takenAttrs := attrs, takenBlink := r.blinkOn }

/-- At the first frame start after a reset every cell takes character 20h, attribute 0 and part WHOLE (R134). -/
def Painter.resetFill (p : Painter) : Painter :=
  if p.fillOwed then
    { p with cells := Table.replicate 36 (Table.replicate 96 (Cell.blank 0)), fillOwed := false }
  else p

/-- What a frame start does once initialisation has ended: the blink count advances, the Tape Unit does its work if a band
shows TAPE, and the Painter's work begins with its first step (R127, R151, R161). -/
def State.frameWork (s : State) : State :=
  ({ s with
    raster := s.raster.advanceBlink
    tape := if s.tapeShown then s.tape.frameStart else s.tape }.setWork (.clearing (firstLooks s.bands) none)).updateWork

/-- What every frame start does, held in reset or initialising too: the reset fill that is owed, and the Raster's taking of the
attributes and the phase (R134, R147). -/
def State.frameTaking (s : State) : State :=
  { s with painter := s.painter.resetFill, raster := s.raster.takeAttrs s.colour.attrs }

/-- A frame start falls only when the Painter's work of the last one is done, since that work ends within the blanking it began in
(R127); until then the step does not come about. -/
def State.startFrame (s : State) : State :=
  if s.workDone = true then
    (if s.link.phase = .running then s.frameWork.frameTaking else s.frameTaking)
  else s

/-- FRAME_START (R127, R153). -/
def execFrameStart (s : State) : Host.Outcome State Fault Refusal := .next s.settled.startFrame

/-! ### The reading at the first active line (R147, R164) -/

/-- The band records, the tape window and its attributes as they stand. -/
def State.takeReading (s : State) : Reading where
  bands := s.bands
  window := s.tape.ring.take Config.windowLength
  offset := s.tape.offset
  late := s.tape.late
  labelAttr := s.colour.resolve 0 .label
  staleAttr := s.colour.resolve 0 .stale

/-- The Raster takes what it draws the whole frame from; a frame whose first active line falls while the part is held in reset or
initialises is the initialisation picture (R147, R154). It falls only when the Painter's work is done (R127). -/
def State.readFrame (s : State) : State :=
  if s.workDone = true then
    { (s.setWork .idle) with
      raster := { s.raster with reading := if s.link.phase = .running then some s.takeReading else none } }
  else s

/-- RASTER_READING (R147). -/
def execRasterReading (s : State) : Host.Outcome State Fault Refusal := .next s.settled.readFrame

/-! ### Drawing (R118, R148 to R151, R153, R154, R164, R165) -/

/-- The codes whose glyphs have foreground dots: the printable characters, the two arrows and the late mark (R149). -/
def hasDots (code : Byte) : Bool :=
  printable code || decide (code = 0x18) || decide (code = 0x19) || decide (code = 0x7F)

/-- Whether a glyph has a foreground dot at a column and line: the free pattern for the codes that have dots, none for every
other code (R149). -/
def glyphDot (code : Byte) (column line : Nat) : Bool := hasDots code && Config.glyphPattern code column line

/-- The glyph column a part draws at cell column x (R149). -/
def partColumn : Part → Nat → Nat
  | .whole, x => x
  | .left, x => x / 2
  | .right, x => 5 + x / 2
  | .top, x => x
  | .bottom, x => x
  | .topLeft, x => x / 2
  | .topRight, x => 5 + x / 2
  | .bottomLeft, x => x / 2
  | .bottomRight, x => 5 + x / 2

/-- The glyph line a part draws at cell line y (R149). -/
def partLine : Part → Nat → Nat
  | .whole, y => y
  | .left, y => y
  | .right, y => y
  | .top, y => y / 2
  | .bottom, y => 8 + y / 2
  | .topLeft, y => y / 2
  | .topRight, y => y / 2
  | .bottomLeft, y => 8 + y / 2
  | .bottomRight, y => 8 + y / 2

/-- The colour of one dot of a character in an attribute: the blink while the phase is off, then the underline on glyph line 15,
then the glyph (R149, R150, R151). -/
def dotColour (attr : Attr) (blinkOn : Bool) (code : Byte) (column line : Nat) : Colour :=
  if attr.blink && !blinkOn then attr.background
  else if (attr.underline && decide (line = 15)) || glyphDot code column line then attr.foreground
  else attr.background

/-- The colour of one dot of a cell of the Cell Store (R149). -/
def cellColour (attrs : Table 16 Attr) (blinkOn : Bool) (c : Cell) (x y : Nat) : Colour :=
  dotColour (attrs.get c.attr) blinkOn c.code (partColumn c.part x) (partLine c.part y)

/-- The part a tape character takes on a row of the window: the whole glyph at size 0, its two halves at size 2 (R164). -/
def tapePart (b : Band) (windowRow : Nat) : Part :=
  if heightMul b.size = 1 then .whole else if windowRow = 0 then .top else .bottom

/-- The colour of dot column d of the tape window, at cell line y of one of its rows: the late mark on the first 10 dots while
LATE is set, else the ring's character at (d + offset) div 10, a space beyond the ring (R164, R165). -/
def tapeColour (attrs : Table 16 Attr) (blinkOn : Bool) (r : Reading) (b : Band) (windowRow d y : Nat) : Colour :=
  if r.late = true ∧ d < 10 then
    dotColour (attrs.get r.staleAttr) blinkOn 0x7F d (partLine (tapePart b windowRow) y)
  else
    dotColour (attrs.get r.labelAttr) blinkOn (r.window.getD ((d + r.offset) / 10) 0x20) ((d + r.offset) % 10)
      (partLine (tapePart b windowRow) y)

/-- The row belongs to the used band (R139). -/
def holdsRow (row : Nat) (b : Band) : Bool := decide (b.top ≤ row) && decide (row < b.top + b.height)

/-- The colour of the dot at a physical row and column, cell column x and cell line y (R148). -/
def pictureColour (s : State) (r : Reading) (row : Fin 36) (column : Fin 96) (x y : Nat) : Colour :=
  let attrs := s.raster.takenAttrs
  match r.bands.lowest (holdsRow row.val) with
  | none => (attrs.get 0).background
  | some k =>
    let b := r.bands.get k
    match b.shows with
    | .nothing => (attrs.get b.background).background
    | .board _ =>
      if b.curtain = .opened then cellColour attrs s.raster.takenBlink (s.painter.cells.at row column) x y
      else (attrs.get b.background).background
    | .tape =>
      if row.val < b.top + heightMul b.size then
        tapeColour attrs s.raster.takenBlink r b (row.val - b.top) (10 * column.val + x) y
      else (attrs.get b.background).background

/-- The colour of the dot at a physical row and column: of the frame's reading, or of the initialisation picture (R148,
R154). -/
def frameColour (s : State) (row : Fin 36) (column : Fin 96) (x y : Nat) : Colour :=
  match s.raster.reading with
  | none => (s.raster.takenAttrs.get 0).background
  | some r => pictureColour s r row column x y

/-- The levels of the video lines, true for high (section 1.5). -/
structure VideoLevels where
  red : Bool
  green : Bool
  blue : Bool
  intensity : Bool
  hsync : Bool
  vsync : Bool
  deriving DecidableEq, Repr

/-- The colour outputs of a colour number: I for 8, R for 4, G for 2, B for 1 (R118). -/
def colourLines (c : Colour) (hsync vsync : Bool) : VideoLevels :=
  ⟨c.val.testBit 2, c.val.testBit 1, c.val.testBit 0, c.val.testBit 3, hsync, vsync⟩

/-- Whether a line and dot of a frame lie in the active picture (R153). -/
def activeDot (line dot : Nat) : Bool := decide (49 ≤ line ∧ line ≤ 624 ∧ dot ≤ 959)

/-- HSYNC is low on dots 1,008..1,135 of every line (R153). -/
def hsyncLevel (dot : Nat) : Bool := !decide (1008 ≤ dot ∧ dot ≤ 1135)

/-- VSYNC is low on lines 3..5 (R153). -/
def vsyncLevel (line : Nat) : Bool := !decide (3 ≤ line ∧ line ≤ 5)

/-- The video outputs at a line 0..624 and a dot 0..1,199 of the frame being drawn: the four colour lines low during
blanking, and in the active picture the colour of the dot of row (line − 49) div 16 and column dot div 10 (R118, R153). -/
def videoOut (s : State) (line dot : Nat) : VideoLevels :=
  if activeDot line dot then
    colourLines (frameColour s (Fin.ofNat 36 ((line - 49) / 16)) (Fin.ofNat 96 (dot / 10)) (dot % 10) ((line - 49) % 16))
      (hsyncLevel dot) (vsyncLevel line)
  else ⟨false, false, false, false, hsyncLevel dot, vsyncLevel line⟩

end Sys2Proof.Machine
end

