-- ==== Sys2Proof/Machine/Dispatch.lean ====
section
/-! DEFINITION. The dispatch: one arm per command, each a call of its meaning. -/

namespace Sys2Proof.Machine

open Sys2Proof

def exec (i : Instr) (s : State) : Host.Outcome State Fault Refusal :=
  match i with
  | .resetNAsserted => Sys2Proof.Machine.execResetNAsserted s
  | .resetNReleased rate1 rate0 => Sys2Proof.Machine.execResetNReleased rate1 rate0 s
  | .initialisationEnd => Sys2Proof.Machine.execInitialisationEnd s
  | .rxdCharacter byte stopHigh => Sys2Proof.Machine.execRxdCharacter byte stopHigh s
  | .frameGapTimeout => Sys2Proof.Machine.execFrameGapTimeout s
  | .recordSent => Sys2Proof.Machine.execRecordSent s
  | .badFrameAdmission => Sys2Proof.Machine.execBadFrameAdmission s
  | .overrunAdmission => Sys2Proof.Machine.execOverrunAdmission s
  | .feedNotice => Sys2Proof.Machine.execFeedNotice s
  | .missNotice => Sys2Proof.Machine.execMissNotice s
  | .unknownKind => Sys2Proof.Machine.execUnknownKind s
  | .reset => Sys2Proof.Machine.execReset s
  | .status reads => Sys2Proof.Machine.execStatus reads s
  | .define => Sys2Proof.Machine.execDefine s
  | .clear => Sys2Proof.Machine.execClear s
  | .halt => Sys2Proof.Machine.execHalt s
  | .resume => Sys2Proof.Machine.execResume s
  | .setref => Sys2Proof.Machine.execSetref s
  | .openDay => Sys2Proof.Machine.execOpenDay s
  | .query => Sys2Proof.Machine.execQuery s
  | .install => Sys2Proof.Machine.execInstall s
  | .remove => Sys2Proof.Machine.execRemove s
  | .dflush => Sys2Proof.Machine.execDflush s
  | .dprobe => Sys2Proof.Machine.execDprobe s
  | .mpurge => Sys2Proof.Machine.execMpurge s
  | .tick => Sys2Proof.Machine.execTick s
  | .release entries => Sys2Proof.Machine.execRelease entries s
  | .discard => Sys2Proof.Machine.execDiscard s
  | .heartbeat => Sys2Proof.Machine.execHeartbeat s
  | .watch => Sys2Proof.Machine.execWatch s
  | .feedWatchExpiry => Sys2Proof.Machine.execFeedWatchExpiry s
  | .heatScanStep => Sys2Proof.Machine.execHeatScanStep s
  | .map => Sys2Proof.Machine.execMap s
  | .unmap => Sys2Proof.Machine.execUnmap s
  | .mflush => Sys2Proof.Machine.execMflush s
  | .mprobe => Sys2Proof.Machine.execMprobe s
  | .mfind => Sys2Proof.Machine.execMfind s
  | .settext => Sys2Proof.Machine.execSettext s
  | .setattr => Sys2Proof.Machine.execSetattr s
  | .setpal => Sys2Proof.Machine.execSetpal s
  | .heatcfg => Sys2Proof.Machine.execHeatcfg s
  | .blink => Sys2Proof.Machine.execBlink s
  | .band => Sys2Proof.Machine.execBand s
  | .showBand => Sys2Proof.Machine.execShowBand s
  | .paint => Sys2Proof.Machine.execPaint s
  | .tapetext => Sys2Proof.Machine.execTapetext s
  | .tapespeed => Sys2Proof.Machine.execTapespeed s
  | .frameStart => Sys2Proof.Machine.execFrameStart s
  | .bandClear band => Sys2Proof.Machine.execBandClear band s
  | .taking => Sys2Proof.Machine.execTaking s
  | .curtainRelease band => Sys2Proof.Machine.execCurtainRelease band s
  | .rasterReading => Sys2Proof.Machine.execRasterReading s

end Sys2Proof.Machine
end

