-- ==== Sys2Proof/Safety.lean ====
section
/-! DEFINITION. What claims are stated in: when a request's frame is offered to the Interpreter, the lengths and ranges the
catalogue asks of each request, the entries a change newly marks, the closed forms of the changes that many requests share,
and the laws of the device, each a property of one state that every step keeps. -/

namespace Sys2Proof.Machine

open Sys2Proof

/-! ### The terms of the claims -/

/-- A step is safe when it answers a next state: neither a fault nor a refusal. -/
def Safe (o : Host.Outcome State Fault Refusal) : Prop := ∃ t, o = .next t

/-- The Interpreter can take a frame of this kind and payload: the part runs, no request is being carried out, the Outbound
Queue has a free place, the frame stands at the head of the Inbound Queue (R173, R180), and no marks are still to come. A request that
finds such marks, or an answer still to be placed, first sees them carried out, or it placed (assumption log 22, 23). -/
abbrev State.Offers (s : State) (kind : Byte) (payload : List Byte) : Prop :=
  s.link.phase = .running ∧ s.carrying = .idle ∧ s.link.outbound.length < 16
    ∧ s.link.inbound.head? = some ⟨kind, payload⟩ ∧ s.owed = none

/-- The state with the head frame taken and one record placed in the Outbound Queue, or still to be placed where a class waits whose
admission may be first (R177; assumption log 23), and nothing else changed. -/
def State.answered (r : Record) (s : State) : State :=
  { s with
    carrying := if s.classWaits then .answering r else s.carrying
    link := { s.link with
      inbound := s.link.inbound.tail
      outbound := s.link.outbound ++ (if s.classWaits then [] else [r]) } }

/-- The entries a mark request for a property would newly queue: LIVE, with the property, not dirty, and appearing in a band,
in ascending index order (R98, R122). -/
def State.newlyMarked (s : State) (p : Field → Bool) : List EntryIx :=
  s.fields.indices (fun f => decide (f.state = .live) && p f && !f.dirty && appears s.bands f)

/-- The entries the mark requests for items of a slot would newly queue, item by item and by index within an item (R98). -/
def State.newlyShowing (s : State) (slot : Slot) (items : List Item) : List EntryIx :=
  items.flatMap (fun item => s.newlyMarked (showsItem slot item))

/-- Entries have joined the Dirty List at its tail with their dirty marks set, and nothing else has changed. -/
def State.queued (new : List EntryIx) (s : State) : State :=
  { s with
    fields := Table.ofFn (fun i => { s.fields.get i with dirty := (s.fields.get i).dirty || decide (i ∈ new) })
    painter := { s.painter with dirty := s.painter.dirty ++ new } }

/-- The Feed Watch's expiry and recovery: every LIVE price-bearing entry marked, and the FEED latch set (R57). -/
def State.feedTold (s : State) : State :=
  { s.queued (s.newlyMarked (fun f => priceBearing f.item)) with link := { s.link with feedLatch := true } }

/-- The state after a reload of the Feed Watch, by the state it finds (R53). -/
def State.reloaded (s : State) : State :=
  match s.intake.watch with
  | .off => s
  | .fresh period _ => s.setWatch (.fresh period period)
  | .stale period => (s.setWatch (.fresh period period)).feedTold

/-- The entry is LIVE and appears in the band (R83). -/
def liveIn (b : Band) (f : Field) : Bool := decide (f.state = .live) && appearsIn f b

/-- The LIVE entries of band k have their unpainted mark for it and their dirty mark set, those whose unpainted mark was clear are
counted, and those whose dirty mark was clear have joined the Dirty List in index order (R92). -/
def State.swept (k : BandIx) (s : State) : State :=
  let b := s.bands.get k
  { s with
    fields := s.fields.map (fun f =>
      if liveIn b f then { f with unpainted := f.unpainted.set k true, dirty := true } else f)
    painter := { s.painter with dirty := s.painter.dirty ++ s.fields.indices (fun f => liveIn b f && !f.dirty) }
    bands := s.bands.modify k (fun x =>
      { x with count := x.count + s.fields.count (fun f => liveIn b f && !f.unpainted.get k) }) }

/-- Band k owes a clear, is CURTAINED, and has been swept (R145). -/
def State.refreshed (k : BandIx) (s : State) : State :=
  { s with bands := s.bands.modify k (fun b => { b with clearPending := true, curtain := .curtained }) }.swept k

/-- The unpainted marks of one entry are clear, and the count of each band it held one for is lowered by one (R93). -/
def State.marksDropped (i : EntryIx) (s : State) : State :=
  { s with
    fields := s.fields.modify i (fun f => { f with unpainted := Table.replicate 4 false })
    bands := Table.ofFn (fun k =>
      if (s.fields.get i).unpainted.get k then { s.bands.get k with count := (s.bands.get k).count - 1 }
      else s.bands.get k) }

/-- Every entry's unpainted mark is clear for the bands with a property (R93). -/
def clearMarksWhere (p : BandIx → Bool) (fields : Table 256 Field) : Table 256 Field :=
  fields.map (fun f => { f with unpainted := Table.ofFn (fun k => f.unpainted.get k && !p k) })

/-- A change has marked a slot's items: the entries newly marked have been queued, or the marks are still to come where a taking
may fall before them (R60, R98, R109; assumption log 22). -/
def State.toldOf (slot : Slot) (items : List Item) (s : State) : State :=
  if s.mayTake then { s with owed := some (.lookups slot items) } else s.queued (s.newlyShowing slot items)

/-- One tick has been applied to its slot's record, after the marks of the change before it, its items have been marked, and its
print has been offered (R14, R43, R44, R60). -/
def State.applied (slot : Slot) (tape : Bool) (it : TickItems) (s : State) : State :=
  ((s.settled.setRecord slot (applyItems s.colour.flashHeat it (s.records.get slot))).toldOf slot
    (tickMarks it (s.records.get slot))).offerPrint slot tape it

/-- A number in decimal without leading zeros, a lone "0" for zero, from its digits (R63). -/
def decimalText (v : Nat) : List Byte :=
  if v = 0 then [0x30] else (Nat.digits 10 v).reverse.map (fun d => BitVec.ofNat 8 (0x30 + d))

/-! ### The requests as the catalogue lists them -/

/-- The KIND of each request (section 10.6); the part's other steps take no frame of one kind. -/
def requestKind : Instr → Option Byte
  | .reset => some 0x01 | .status _ => some 0x02
  | .define => some 0x08 | .clear => some 0x09 | .halt => some 0x0A | .resume => some 0x0B | .setref => some 0x0C
  | .openDay => some 0x0D | .query => some 0x0E
  | .install => some 0x10 | .remove => some 0x11 | .dflush => some 0x12 | .dprobe => some 0x13 | .mpurge => some 0x14
  | .tick => some 0x18 | .release _ => some 0x19 | .discard => some 0x1A | .heartbeat => some 0x1B | .watch => some 0x1C
  | .map => some 0x20 | .unmap => some 0x21 | .mflush => some 0x22 | .mprobe => some 0x23 | .mfind => some 0x24
  | .settext => some 0x25
  | .setattr => some 0x28 | .setpal => some 0x29 | .heatcfg => some 0x2A | .blink => some 0x2B
  | .band => some 0x30 | .showBand => some 0x31 | .paint => some 0x32 | .tapetext => some 0x38 | .tapespeed => some 0x39
  | _ => none

/-- The payload length a request's fields require (R7, R24, R38, R85 and the rule of each other request). -/
def lengthOk (c : Instr) (p : List Byte) : Bool :=
  match c with
  | .define => decide (4 ≤ p.length ∧ p.length = 4 + fieldAt p 3 1)
  | .tick =>
    decide (7 ≤ p.length ∧
      p.length = 7 + (if (fieldAt p 6 1).testBit 0 then 8 else 0) + (if (fieldAt p 6 1).testBit 1 then 4 else 0)
        + (if (fieldAt p 6 1).testBit 2 then 4 else 0) + (if (fieldAt p 6 1).testBit 3 then 4 else 0)
        + (if (fieldAt p 6 1).testBit 4 then 4 else 0))
  | .map => decide (10 ≤ p.length ∧ p.length = 10 + fieldAt p 9 1)
  | .settext => decide (2 ≤ p.length ∧ p.length = 2 + fieldAt p 1 1)
  | .tapetext => decide (1 ≤ p.length ∧ p.length = 1 + fieldAt p 0 1)
  | .install => decide (p.length = 8)
  | .setref => decide (p.length = 7)
  | .remove => decide (p.length = 6)
  | .dprobe => decide (p.length = 5)
  | .setattr => decide (p.length = 5)
  | .band => decide (p.length = 5)
  | .mfind => decide (p.length = 4)
  | .heatcfg => decide (p.length = 4)
  | .setpal => decide (p.length = 3)
  | .clear | .halt | .resume | .query | .showBand => decide (p.length = 2)
  | .dflush | .watch | .unmap | .mflush | .mprobe | .blink | .paint | .tapespeed => decide (p.length = 1)
  | _ => decide (p.length = 0)

/-- Every field of a request lies in its stated range; a field that is clamped or saturated, and an index of one byte, always
does (R7, R11, R24, R28, R39, R86, R91, R96, R97, R107, R116, R120, R140, R142, R158). -/
def rangeOk (c : Instr) (p : List Byte) : Bool :=
  match c with
  | .define =>
    decide (fieldAt p 0 2 ≤ 511 ∧ fieldAt p 2 1 ∈ [0, 1, 2, 3, 4, 5, 6, 8, 9, 10]
      ∧ 1 ≤ fieldAt p 3 1 ∧ fieldAt p 3 1 ≤ 8)
  | .clear | .halt | .resume | .query => decide (fieldAt p 0 2 ≤ 511)
  | .setref => decide (fieldAt p 0 2 ≤ 511 ∧ fieldAt p 2 1 ≤ 1)
  | .install => decide (fieldAt p 0 1 ≤ 31 ∧ fieldAt p 1 1 ≤ 1 ∧ fieldAt p 6 2 ≤ 511)
  | .remove => decide (fieldAt p 0 1 ≤ 31 ∧ fieldAt p 1 1 ≤ 1)
  | .dflush => decide (fieldAt p 0 1 ≤ 0x20 ∨ fieldAt p 0 1 = 0xFF)
  | .dprobe => decide (fieldAt p 0 1 ≤ 31)
  | .tick => decide (fieldAt p 0 1 ≤ 31 ∧ fieldAt p 6 1 % 32 ≠ 0)
  | .map =>
    decide (fieldAt p 0 1 ≤ 0x10 ∧ (fieldAt p 3 1 = 9 ∨ fieldAt p 1 2 ≤ 511) ∧ fieldAt p 3 1 ≤ 9 ∧ fieldAt p 4 1 ≤ 35
      ∧ fieldAt p 5 1 ≤ 95 ∧ fieldAt p 5 1 + fieldAt p 6 1 ≤ 96 ∧ 1 ≤ fieldAt p 6 1 ∧ fieldAt p 6 1 ≤ 16
      ∧ fieldAt p 7 1 ≤ 3 ∧ fieldAt p 8 1 ≤ 1 ∧ fieldAt p 9 1 ≤ (if fieldAt p 3 1 = 9 then 16 else 0))
  | .mflush => decide (fieldAt p 0 1 ≤ 0x10 ∨ fieldAt p 0 1 = 0xFF)
  | .mfind => decide (fieldAt p 0 2 ≤ 511 ∧ fieldAt p 2 1 ≤ 8 ∧ fieldAt p 3 1 ≤ 15)
  | .settext => decide (fieldAt p 1 1 ≤ 16)
  | .setattr =>
    decide (fieldAt p 0 1 ≤ 15 ∧ fieldAt p 1 1 ≤ 15 ∧ fieldAt p 2 1 ≤ 15 ∧ fieldAt p 3 1 ≤ 1 ∧ fieldAt p 4 1 ≤ 1)
  | .setpal => decide (fieldAt p 0 1 ≤ 3 ∧ fieldAt p 1 1 ≤ 13 ∧ fieldAt p 2 1 ≤ 15)
  | .heatcfg => decide (fieldAt p 1 1 ≤ 1 ∧ fieldAt p 2 1 ≤ 7 ∧ fieldAt p 3 1 ≤ 3)
  | .band =>
    decide (fieldAt p 0 1 ≤ 3 ∧ fieldAt p 1 1 ≤ 35 ∧ fieldAt p 2 1 ≤ 36 ∧ fieldAt p 3 1 ≤ 3 ∧ fieldAt p 4 1 ≤ 15
      ∧ fieldAt p 1 1 + fieldAt p 2 1 ≤ 36)
  | .showBand => decide (fieldAt p 0 1 ≤ 3 ∧ fieldAt p 1 1 ≤ 0x11)
  | .tapetext => decide (1 ≤ fieldAt p 0 1 ∧ fieldAt p 0 1 ≤ 32)
  | _ => true

/-- The values of a tick fit the bytes the message gives them (R38). -/
structure TickItems.Fits (it : TickItems) : Prop where
  last : ∀ x ∈ it.last, x.1 < 2 ^ 32 ∧ x.2 < 2 ^ 32
  bid : ∀ v ∈ it.bid, v < 2 ^ 32
  ask : ∀ v ∈ it.ask, v < 2 ^ 32
  vol : ∀ v ∈ it.vol, v < 2 ^ 32
  ref : ∀ v ∈ it.ref, v < 2 ^ 32

/-- The five assigned bits of the mask of a TICK (section 10.7). -/
def TickItems.mask (it : TickItems) : Nat :=
  flagBit it.last.isSome + 2 * flagBit it.bid.isSome + 4 * flagBit it.ask.isSome + 8 * flagBit it.vol.isSome
    + 16 * flagBit it.ref.isSome

/-- The payload of a TICK of these items, with any flags byte and anything in the mask's unassigned bits (section 10.7). -/
def tickBytes (venue : Venue) (code : Code) (flags : Byte) (spare : Fin 8) (it : TickItems) : List Byte :=
  beBytes 1 venue.val ++ beBytes 4 code.toNat ++ [flags] ++ beBytes 1 (it.mask + 32 * spare.val)
    ++ (match it.last with | some (price, size) => beBytes 4 price ++ beBytes 4 size | none => [])
    ++ (it.bid.elim [] (beBytes 4)) ++ (it.ask.elim [] (beBytes 4)) ++ (it.vol.elim [] (beBytes 4))
    ++ (it.ref.elim [] (beBytes 4))

/-- The items as Quote Intake takes them: prices above 999,999,999 are taken as 999,999,999 (R40). -/
def TickItems.saturated (it : TickItems) : TickItems where
  last := it.last.map (fun x => (min x.1 999999999, x.2))
  bid := it.bid.map (fun v => min v 999999999)
  ask := it.ask.map (fun v => min v 999999999)
  vol := it.vol
  ref := it.ref.map (fun v => min v 999999999)

/-- The payload of a MAP for an entry, with what its slot field carries and its text as the host gave it (R86). -/
def mapBytes (f : Field) (slotField : Nat) (text : List Byte) : List Byte :=
  beBytes 1 f.placement.code ++ beBytes 2 slotField ++ beBytes 1 f.item.code ++ beBytes 1 f.row ++ beBytes 1 f.column
    ++ beBytes 1 f.width ++ beBytes 1 f.palette.val ++ beBytes 1 (flagBit f.steady) ++ beBytes 1 text.length ++ text

/-! ### The laws of the device -/

/-- The depths the manual bounds, a place kept for the answer of a request not yet ended, one such request at a time, and a part
that is not running holds nothing in its queues and latches and has no marks still to come (R31, R45, R171, R173, R175, R176, R179,
R180). -/
structure State.QueuesLawful (s : State) : Prop where
  inbound : s.link.inbound.length ≤ 8
  outbound : s.link.outbound.length ≤ 16
  placeKept : (s.carrying ≠ .idle ∨ ∃ set attr, s.owed = some (.sweep set attr)) → s.link.outbound.length < 16
  sweepAlone : ∀ set attr, s.owed = some (.sweep set attr) → s.carrying = .idle
  staging : s.intake.staging.length ≤ 32
  misses : s.directory.misses.length ≤ 8
  quiet : s.link.phase ≠ .running →
    s.link.inbound = [] ∧ s.link.outbound = [] ∧ s.link.receiver = .hunting ∧ s.carrying = .idle
      ∧ s.link.badFrame = none ∧ s.link.overrun = none ∧ s.link.feedLatch = false
      ∧ s.directory.misses = [] ∧ s.intake.watch = .off ∧ s.owed = none

/-- The law of one quote record: the ranges of R1, and the binding of heat, high and low to the last price (R4). -/
structure Quote.Lawful (q : Quote) : Prop where
  heat : q.heat ≤ 15
  cold : q.last = none → q.heat = 0
  high : q.high.isSome = q.last.isSome
  low : q.low.isSome = q.last.isSome
  belowHigh : ∀ l ∈ q.last, ∀ h ∈ q.high, l ≤ h
  aboveLow : ∀ l ∈ q.last, ∀ w ∈ q.low, w ≤ l
  prices : ∀ p ∈ [q.last, q.reference, q.bid, q.ask, q.high, q.low], ∀ v ∈ p, v ≤ 999999999
  volume : q.volume ≤ 4294967295
  symbolLength : q.symbol.length ≤ 8
  symbolPresent : q.state ≠ .empty → q.symbol ≠ []
  symbolText : ∀ b ∈ q.symbol, printable b = true

/-- The values of a staged tick lie in their ranges (R40, R45). -/
structure TickItems.Lawful (it : TickItems) : Prop where
  last : ∀ x ∈ it.last, x.1 ≤ 999999999 ∧ x.2 ≤ 4294967295
  prices : ∀ p ∈ [it.bid, it.ask, it.ref], ∀ v ∈ p, v ≤ 999999999
  vol : ∀ v ∈ it.vol, v ≤ 4294967295

/-- Every record keeps its law, with the flash heat and the staged values that later writers use (R4, R40, R104). -/
structure State.RecordsLawful (s : State) : Prop where
  records : ∀ slot, (s.records.get slot).Lawful
  staged : ∀ e ∈ s.intake.staging, e.items.Lawful
  flash : 1 ≤ s.colour.flashHeat ∧ s.colour.flashHeat ≤ 15

/-- No two valid directory entries match the same pair, every valid entry names a slot that is not EMPTY, and the Miss List
never holds two records with the same pair, nor one matched by a valid entry (R22, R31). -/
structure State.DirectoryLawful (s : State) : Prop where
  unambiguous : ∀ i j e x venue code, s.directory.entries.get i = some e → s.directory.entries.get j = some x →
    e.covers venue code = true → x.covers venue code = true → i = j
  defined : ∀ i e, s.directory.entries.get i = some e → (s.records.get e.slot).state ≠ .empty
  distinct : s.directory.misses.Pairwise (fun m n => ¬(m.venue = n.venue ∧ m.code = n.code))
  unmatched : ∀ m ∈ s.directory.misses, ∀ i e, s.directory.entries.get i = some e → e.covers m.venue m.code = false

/-- The Dirty List never holds an index twice, a dirty mark is set exactly while its index is in the list, every ERASING entry
is in the list, and no FREE entry is (R121); the Painter takes only while its budget is not counted and the list is not empty
(R129). -/
structure State.DirtyLawful (s : State) : Prop where
  nodup : s.painter.dirty.Nodup
  marks : ∀ i, (s.fields.get i).dirty = true ↔ i ∈ s.painter.dirty
  erasing : ∀ i, (s.fields.get i).state = .erasing → (s.fields.get i).dirty = true
  free : ∀ i, (s.fields.get i).state = .free → (s.fields.get i).dirty = false
  taking : ∀ budget counted, s.painter.work = .taking budget counted → counted < budget ∧ s.painter.dirty ≠ []

/-- An unpainted mark is held only by a LIVE entry that is dirty and appears in the band; a band's pending count is the number
of marks set for it; a band showing a board is CURTAINED while its count is above 0 or its clear is pending; any other band has
count 0 and is OPEN; an unused band shows NONE and owes no clear (R93, R138, R145). -/
structure State.CurtainsLawful (s : State) : Prop where
  marks : ∀ i k, (s.fields.get i).unpainted.get k = true →
    (s.fields.get i).state = .live ∧ (s.fields.get i).dirty = true ∧ appearsIn (s.fields.get i) (s.bands.get k) = true
  counts : ∀ k, (s.bands.get k).count = s.fields.count (fun f => f.unpainted.get k)
  curtained : ∀ k b, (s.bands.get k).shows = .board b → (0 < (s.bands.get k).count ∨ (s.bands.get k).clearPending = true) →
    (s.bands.get k).curtain = .curtained
  others : ∀ k, (∀ b, (s.bands.get k).shows ≠ .board b) → (s.bands.get k).count = 0 ∧ (s.bands.get k).curtain = .opened
  unused : ∀ k, (s.bands.get k).height = 0 → (s.bands.get k).shows = .nothing ∧ (s.bands.get k).clearPending = false

/-- Every band lies on the screen, no two used bands share a row, no board is shown in two bands, at most one band shows TAPE
and it is not of double width (R138, R139, R155). -/
structure State.BandsLawful (s : State) : Prop where
  onScreen : ∀ k, (s.bands.get k).top + (s.bands.get k).height ≤ 36
  apart : ∀ j k row, j ≠ k → holdsRow row (s.bands.get j) = true → holdsRow row (s.bands.get k) = false
  boards : ∀ j k b, (s.bands.get j).shows = .board b → (s.bands.get k).shows = .board b → j = k
  oneTape : ∀ j k, (s.bands.get j).shows = .tape → (s.bands.get k).shows = .tape → j = k
  tapeSize : ∀ k, (s.bands.get k).shows = .tape → doubleWidth (s.bands.get k).size = false

/-- The contents of an entry that is not FREE lie in the ranges of R81. -/
structure Field.InRange (f : Field) : Prop where
  row : f.row ≤ 35
  width : 1 ≤ f.width ∧ f.width ≤ 16
  column : f.column + f.width ≤ 96
  slot : f.slot.isSome = decide (f.item ≠ Item.text)
  textLength : f.text.length ≤ 16
  textOnly : f.item ≠ .text → f.text = []
  text : ∀ b ∈ f.text, printable b = true

/-- A new entry that a MAP of this slot field and this text asks for (R86, R88). -/
structure Field.Asked (f : Field) (slotField : Nat) (text : List Byte) : Prop where
  live : f.state = .live
  ranges : f.InRange
  slot : f.item ≠ .text → f.slot.map Fin.val = some slotField
  slotField : slotField < 2 ^ 16
  text : f.text = text.map sanitise
  clean : f.dirty = false ∧ f.unpainted = Table.replicate 4 false

/-- No two LIVE entries that can appear in the same band share a logical cell, and no two LIVE non-TEXT entries that can appear
in the same band have the same slot and item; entries that are not FREE keep their ranges (R81, R84). -/
structure State.LayoutLawful (s : State) : Prop where
  ranges : ∀ i, (s.fields.get i).state ≠ .free → (s.fields.get i).InRange
  cells : ∀ i j, i ≠ j → (s.fields.get i).state = .live → (s.fields.get j).state = .live →
    canMeet (s.fields.get i).placement (s.fields.get j).placement = true →
    sharesCell (s.fields.get i) (s.fields.get j) = false
  items : ∀ i j, i ≠ j → (s.fields.get i).state = .live → (s.fields.get j).state = .live →
    canMeet (s.fields.get i).placement (s.fields.get j).placement = true → (s.fields.get i).item ≠ .text →
    ¬((s.fields.get i).slot = (s.fields.get j).slot ∧ (s.fields.get i).item = (s.fields.get j).item)

/-- The Tape Queue never holds more than 64 items, the Tape Ring never more than 128 characters, both are empty whenever no band
shows TAPE, and the offset and base speed keep their ranges (R155, R160). -/
structure State.TapeLawful (s : State) : Prop where
  queue : s.tape.queue.length ≤ 64
  ring : s.tape.ring.length ≤ 128
  empty : s.tapeShown = false → s.tape.queue = [] ∧ s.tape.ring = []
  offset : s.tape.offset ≤ 9
  speed : 1 ≤ s.tape.baseSpeed ∧ s.tape.baseSpeed ≤ 4

/-- The period of an armed Feed Watch is 1..63, and the remaining time of a FRESH one is at most its period (R52). -/
def FeedWatch.Lawful : FeedWatch → Prop
  | .off => True
  | .fresh period remaining => 1 ≤ period ∧ period ≤ 63 ∧ remaining ≤ period
  | .stale period => 1 ≤ period ∧ period ≤ 63

/-- The settings keep their ranges: the Feed Watch's period, the Heat Scan's position below its limit, the paint budget, and
the blink period with its count below it (R52, R105, R125, R151). -/
structure State.SettingsLawful (s : State) : Prop where
  watch : s.intake.watch.Lawful
  position : s.colour.scan.position.val < scanLimit s.colour.scan.limitCode
  budget : 1 ≤ s.painter.budget ∧ s.painter.budget ≤ 64
  blink : 2 ≤ s.raster.blinkPeriod ∧ s.raster.blinkPeriod ≤ 30
  blinkCount : s.raster.blinkCount < s.raster.blinkPeriod

end Sys2Proof.Machine
end

