-- ==== Sys2Proof/Certificates/Slice0/Obligations.lean ====
section
/-! DEFINITION. The statements for the provers. Requests are offered with their payload's bytes written out in the manual's field
order, and what a step answers is written as a whole next state, so that a statement says what changes and that nothing else
does. -/

open Sys2Proof Sys2Proof.Machine

/-! ### The machine as a whole -/

/-- A step carries out the command at the front of the queue on the state with the queue's rest; with an empty queue the part
idles. The queue is the model's own (assumption log 2). -/
def Obligations.StepRunsFrontCommand : Prop :=
  (∀ (s : State) (c : Instr) (rest : List Instr), s.pending = c :: rest → step s = exec c { s with pending := rest })
    ∧ ∀ s : State, s.pending = [] → step s = .next s

/-- Every command, in every state, answers a next state and leaves the waiting commands as they were. That a command out of turn
answers the state it finds, with marks still to come sent (assumption log 22), is the model's choice (assumption log 1), and so is the
queue of waiting commands (assumption log 2). -/
def Obligations.EveryCommandAnswersNext : Prop :=
  ∀ (c : Instr) (s : State), ∃ t, exec c s = .next t ∧ t.pending = s.pending

/-- A request is checked for its payload length first and for its ranges second, and the first step that fails gives the reason;
a request so refused is answered by one REJECT and changes nothing else. The answer has still to be placed where a class waits
(State.answered: assumption log 23). -/
def Obligations.LengthAndRangeChecks : Prop :=
  ∀ (s : State) (c : Instr) (kind : Byte) (p : List Byte), requestKind c = some kind → s.Offers kind p →
    (lengthOk c p = false → exec c s = .next (s.answered (.reject kind .badLength)))
      ∧ (lengthOk c p = true → rangeOk c p = false → exec c s = .next (s.answered (.reject kind .range)))

/-- A request that a REJECT answers has taken its frame and placed that REJECT, or has still to place it where a class waits (assumption
log 23), and has changed nothing else, but for a TICK refused with STAGE_FULL and a TAPETEXT refused with FULL. A frame waits while
the Outbound Queue has no free place, while the part is held in reset or initialises, and while a RELEASE or a STATUS is being carried
out, which only its own step goes on with (assumption log 6); the step of a request with no frame to take changes nothing where no
marks are still to come and no answer is still to be placed (assumption log 1, 22, 23). -/
def Obligations.RefusalsAndWaitingFrames : Prop :=
  (∀ (s t : State) (c : Instr) (kind : Byte) (p : List Byte) (reason : Reason), requestKind c = some kind →
      s.Offers kind p → exec c s = .next t →
      (t.link.outbound = s.link.outbound ++ [.reject kind reason] ∨ t.carrying = .answering (.reject kind reason)) →
      ¬(c = .tick ∧ reason = .stageFull) → ¬(c = .tapetext ∧ reason = .full) →
      t = s.answered (.reject kind reason))
    ∧ (∀ (s : State) (c : Instr), (c = .unknownKind ∨ (requestKind c).isSome = true) → s.carrying = .idle → s.owed = none →
        (16 ≤ s.link.outbound.length ∨ s.link.phase ≠ .running ∨ s.link.inbound = []) → exec c s = .next s)
    ∧ (∀ (s : State) (c : Instr), (c = .unknownKind ∨ (requestKind c).isSome = true) →
        (∀ dealt applied, s.carrying = .release dealt applied → (∀ n, c ≠ .release n) → s.owed = none → exec c s = .next s)
        ∧ (∀ reads reply, s.carrying = .status reads reply → (∀ n, c ≠ .status n) → s.owed = none → exec c s = .next s)
        ∧ (s.carrying ≠ .idle → (∀ r, s.carrying ≠ .answering r) → ∀ t, exec c s = .next t → t.link.inbound = s.link.inbound))

/-! ### Resets -/

/-- The values every block takes at a reset, as each chapter states them. That State.reset is the instant of power-up, with RESET_N
still low, is the model's choice (assumption log 13); the Heat Scan's interval does not run yet (assumption log 15), and the picture
is the initialisation picture (assumption log 9). -/
def Obligations.ResetValues : Prop :=
  (∀ slot, State.reset.records.get slot = ⟨.empty, [], .dec 0, none, none, none, none, none, none, 0, 0, .none⟩)
    ∧ (∀ i, State.reset.directory.entries.get i = none) ∧ State.reset.directory.misses = []
    ∧ State.reset.directory.overflow = false
    ∧ State.reset.intake = ⟨[], .off⟩
    ∧ (∀ i, (State.reset.fields.get i).state = .free ∧ (State.reset.fields.get i).dirty = false
        ∧ ∀ k, (State.reset.fields.get i).unpainted.get k = false)
    ∧ State.reset.colour.flashHeat = 15 ∧ State.reset.colour.scan = ⟨0, true, 3, 3, none⟩
    ∧ (∀ set cls, ((State.reset.colour.palettes.get set).get cls).val = cls.val)
    ∧ State.reset.colour.attrs.list =
        [⟨0, 0, false, false⟩, ⟨15, 0, false, false⟩, ⟨7, 0, false, false⟩, ⟨2, 0, false, false⟩,
         ⟨10, 0, false, false⟩, ⟨0, 10, false, false⟩, ⟨4, 0, false, false⟩, ⟨12, 0, false, false⟩,
         ⟨0, 12, false, false⟩, ⟨10, 0, false, false⟩, ⟨12, 0, false, false⟩, ⟨14, 0, false, false⟩,
         ⟨8, 0, false, false⟩, ⟨0, 14, true, false⟩, ⟨7, 0, false, false⟩, ⟨7, 0, false, false⟩]
    ∧ State.reset.painter.dirty = [] ∧ State.reset.painter.budget = 32 ∧ State.reset.painter.fillOwed = true
    ∧ (∀ k, State.reset.bands.get k = ⟨0, 0, 0, 0, .nothing, .opened, 0, false⟩)
    ∧ State.reset.raster.blinkOn = true ∧ State.reset.raster.blinkPeriod = 16 ∧ State.reset.raster.blinkCount = 0
    ∧ State.reset.raster.reading = none
    ∧ State.reset.tape = ⟨[], [], 0, 2, false⟩
    ∧ State.reset.link.inbound = [] ∧ State.reset.link.outbound = [] ∧ State.reset.link.receiver = .hunting
    ∧ State.reset.link.badFrame = none ∧ State.reset.link.overrun = none ∧ State.reset.link.feedLatch = false
    ∧ State.reset.link.cause = .pin ∧ State.reset.owed = none

/-- RESET_N low resets every block at once with cause PIN, keeping the straps as last read and the cells until the fill; its
release reads the straps and begins initialisation; the end of initialisation places RESET_DONE in the Outbound Queue, loads
the Heat Scan's interval and lets the part run. The model's own inferences in it: the straps are kept (assumption log 3), what the
Raster has taken and its reading are reset at once (assumption log 9), a pin held low resets again (assumption log 14), and the
instant of the first interval (assumption log 15). -/
def Obligations.ResetPinAndInitialisation : Prop :=
  (∀ s : State, exec .resetNAsserted s = .next { State.reset with
      pending := s.pending
      link := { State.reset.link with phase := .held, cause := .pin, straps := s.link.straps }
      painter := { State.reset.painter with cells := s.painter.cells } })
    ∧ (∀ (s : State) (rate1 rate0 : Bool), s.link.phase = .held →
        exec (.resetNReleased rate1 rate0) s =
          .next { s with link := { s.link with phase := .initialising, straps := ⟨rate1, rate0⟩ } })
    ∧ ∀ s : State, s.link.phase = .initialising →
        exec .initialisationEnd s = .next { s with
          link := { s.link with
            phase := .running
            receiver := .hunting
            outbound := s.link.outbound ++ [.resetDone s.link.cause] }
          colour := { s.colour with
            scan := { s.colour.scan with interval := some (25 * 2 ^ s.colour.scan.periodCode.val) } } }

/-- An accepted RESET resets every block with cause MESSAGE and begins initialisation, with no reply, keeping the straps as last
read and the cells until the fill; with a payload it is refused with BAD_LENGTH and has no other effect. The model's own inferences
in it: the straps are kept (assumption log 3), and what the Raster has taken and its reading are reset at once (assumption log 9).
The answer has still to be placed where a class waits (State.answered: assumption log 23). -/
def Obligations.ResetMessage : Prop :=
  ∀ (s : State) (p : List Byte), s.Offers 0x01 p →
    (p = [] → exec .reset s = .next { State.reset with
        pending := s.pending
        link := { State.reset.link with phase := .initialising, cause := .message, straps := s.link.straps }
        painter := { State.reset.painter with cells := s.painter.cells } })
      ∧ (p ≠ [] → exec .reset s = .next (s.answered (.reject 0x01 .badLength)))

/-! ### The link -/

/-- What a character does to the receiver: ignored while the part does not run; while hunting only A5h with a good stop bit starts a
frame; inside a frame a line error or a LEN above 248 discards it, and the CHECK byte completes or discards it. A gap of 2 ms
discards the frame being gathered, with a BAD_FRAME event of its kind, and does nothing while hunting. The record whose CHECK
byte has been sent leaves the head of the Outbound Queue. The ready line is high while the part runs and the Inbound Queue holds fewer
than 8 frames. That a line error in the KIND byte itself gives the kind 00h is the model's inference (assumption log 17); that the
sending of a record is one event is its choice (assumption log 19). -/
def Obligations.ReceiverAndTransmitter : Prop :=
  ((∀ (s : State) (b : Byte) (good : Bool), s.link.phase ≠ .running → exec (.rxdCharacter b good) s = .next s)
      ∧ (∀ (s : State) (b : Byte) (good : Bool), s.link.phase = .running → s.link.receiver = .hunting →
          exec (.rxdCharacter b good) s = .next (if good = true ∧ b = 0xA5
            then { s with link := { s.link with receiver := .gathering [] } } else s))
      ∧ (∀ (s : State) (b : Byte) (got : List Byte), s.link.phase = .running → s.link.receiver = .gathering got →
          exec (.rxdCharacter b false) s = .next { s with link := { s.link with
            receiver := .hunting
            badFrame := s.link.badFrame.or (some (got.getD 1 0x00)) } })
      ∧ ∀ (s : State) (b : Byte) (got all : List Byte), s.link.phase = .running → s.link.receiver = .gathering got →
          all = got ++ [b] →
          (248 < (all.getD 0 0).toNat →
            exec (.rxdCharacter b true) s = .next { s with link := { s.link with
              receiver := .hunting, badFrame := s.link.badFrame.or (some (all.getD 1 0x00)) } })
          ∧ ((all.getD 0 0).toNat ≤ 248 → all.length ≠ (all.getD 0 0).toNat + 3 →
            exec (.rxdCharacter b true) s = .next { s with link := { s.link with receiver := .gathering all } })
          ∧ ((all.getD 0 0).toNat ≤ 248 → all.length = (all.getD 0 0).toNat + 3 →
              (all.map (fun x => x.toNat)).sum % 256 ≠ 0 →
            exec (.rxdCharacter b true) s = .next { s with link := { s.link with
              receiver := .hunting, badFrame := s.link.badFrame.or (some (all.getD 1 0x00)) } })
          ∧ ((all.getD 0 0).toNat ≤ 248 → all.length = (all.getD 0 0).toNat + 3 →
              (all.map (fun x => x.toNat)).sum % 256 = 0 → s.link.inbound.length < 8 →
            exec (.rxdCharacter b true) s = .next { s with link := { s.link with
              receiver := .hunting
              inbound := s.link.inbound ++ [⟨all.getD 1 0x00, (all.drop 2).take (all.getD 0 0).toNat⟩] } })
          ∧ ((all.getD 0 0).toNat ≤ 248 → all.length = (all.getD 0 0).toNat + 3 →
              (all.map (fun x => x.toNat)).sum % 256 = 0 → 8 ≤ s.link.inbound.length →
            exec (.rxdCharacter b true) s = .next { s with link := { s.link with
              receiver := .hunting, overrun := s.link.overrun.or (some (all.getD 1 0x00)) } }))
    ∧ ((∀ (s : State) (got : List Byte), s.link.receiver = .gathering got →
          exec .frameGapTimeout s = .next { s with link := { s.link with
            receiver := .hunting, badFrame := s.link.badFrame.or (some (got.getD 1 0x00)) } })
        ∧ (∀ s : State, s.link.receiver = .hunting → exec .frameGapTimeout s = .next s)
        ∧ (∀ s : State, exec .recordSent s = .next { s with link := { s.link with outbound := s.link.outbound.tail } })
        ∧ ∀ s : State, s.rdy = true ↔ s.link.phase = .running ∧ s.link.inbound.length < 8)

/-- A frame formed as the manual forms it, sent character by character to a running part that hunts and has a free place, arrives
whole: its KIND and payload join the Inbound Queue, and nothing else changes (the queue of the characters is the model's:
assumption log 2). -/
def Obligations.FrameRoundTrip : Prop :=
  ∀ (s : State) (kind : Byte) (payload : List Byte), payload.length ≤ 248 → s.link.phase = .running →
    s.link.receiver = .hunting → s.link.inbound.length < 8 →
    Host.Core.run core (payload.length + 4)
        { s with pending := (frameBytes kind payload).map (fun b => Instr.rxdCharacter b true) } =
      .next { s with pending := [], link := { s.link with inbound := s.link.inbound ++ [⟨kind, payload⟩] } }

/-- The part sends the record at the head of the Outbound Queue as a frame of the record's KIND and payload, and nothing while the
queue is empty. A frame has SYNC, its payload's length, its KIND, its payload and a CHECK that makes the sum 0 modulo 256. Each kind
of record has the KIND, the bytes and the length the catalogue gives it, numbers most significant byte first. How far the sending of
the record has come is left out (assumption log 19). -/
def Obligations.FramesSent : Prop :=
  ((∀ (kind : Byte) (payload : List Byte), payload.length ≤ 248 → ∃ check : Byte,
        frameBytes kind payload = [0xA5, BitVec.ofNat 8 payload.length, kind] ++ payload ++ [check]
          ∧ (payload.length + kind.toNat + (payload.map (fun b => b.toNat)).sum + check.toNat) % 256 = 0)
      ∧ (∀ s : State, s.link.outbound = [] → s.sending = none)
      ∧ (∀ (s : State) (r : Record) (rest : List Record), s.link.outbound = r :: rest → s.sending = some r.bytes)
      ∧ (∀ r : Record, r.bytes = frameBytes r.kindByte r.payload)
      ∧ ∀ v : Nat, beBytes 1 v = [BitVec.ofNat 8 v] ∧ beBytes 2 v = [BitVec.ofNat 8 (v / 256), BitVec.ofNat 8 v]
        ∧ beBytes 4 v = [BitVec.ofNat 8 (v / 16777216), BitVec.ofNat 8 (v / 65536), BitVec.ofNat 8 (v / 256), BitVec.ofNat 8 v])
    ∧ ((∀ kind value, (Record.ack kind value).bytes = frameBytes 0x40 (kind :: beBytes 2 value)
          ∧ (Record.ack kind value).payload.length = 3)
      ∧ (∀ (kind : Byte) (r : Reason) (code : Byte), ((r, code) : Reason × Byte) ∈ [(.badFrame, 0x01), (.badLength, 0x02),
            (.unknownKind, 0x03), (.range, 0x04), (.badState, 0x05), (.noSlot, 0x06), (.inUse, 0x07), (.duplicate, 0x08),
            (.conflict, 0x09), (.full, 0x0A), (.overlap, 0x0B), (.stageFull, 0x0C), (.overrun, 0x0D)] →
          (Record.reject kind r).bytes = frameBytes 0x41 [kind, code] ∧ (Record.reject kind r).payload.length = 2)
      ∧ (∀ r, (Record.status r).bytes = frameBytes 0x42 (beBytes 1 r.cause ++ beBytes 1 r.feed ++ beBytes 1 r.staging
            ++ beBytes 1 r.misses ++ beBytes 1 r.overflow ++ beBytes 2 r.dirty ++ beBytes 1 r.tape ++ beBytes 1 r.late
            ++ beBytes 1 r.inbound ++ beBytes 1 r.budget ++ beBytes 1 r.flashHeat)
          ∧ (Record.status r).payload.length = 12)
      ∧ (∀ (slot : Slot) (q : Quote) (state format direction : Nat), q.symbol.length ≤ 8 →
          ((q.state, state) : RecState × Nat) ∈ [(.empty, 0), (.active, 1), (.halted, 2)] →
          ((∃ n : Fin 7, q.format = .dec n ∧ format = n.val) ∨ (q.format = .f32h ∧ format = 8) ∨ (q.format = .f32e ∧ format = 9)
            ∨ (q.format = .f8 ∧ format = 10)) →
          ((q.direction, direction) : Direction × Nat) ∈ [(.none, 0), (.up, 1), (.down, 2)] →
          (Record.quote slot q).bytes = frameBytes 0x43 (beBytes 2 slot.val ++ beBytes 1 state ++ beBytes 1 format
            ++ beBytes 1 q.symbol.length ++ q.symbol ++ List.replicate (8 - q.symbol.length) 0x20
            ++ beBytes 1 ((if q.last.isSome then 1 else 0) + (if q.reference.isSome then 2 else 0)
              + (if q.bid.isSome then 4 else 0) + (if q.ask.isSome then 8 else 0) + (if q.high.isSome then 16 else 0)
              + (if q.low.isSome then 32 else 0))
            ++ beBytes 4 (q.last.getD 0) ++ beBytes 4 (q.reference.getD 0) ++ beBytes 4 (q.bid.getD 0)
            ++ beBytes 4 (q.ask.getD 0) ++ beBytes 4 (q.high.getD 0) ++ beBytes 4 (q.low.getD 0) ++ beBytes 4 q.volume
            ++ beBytes 1 q.heat ++ beBytes 1 direction)
          ∧ (Record.quote slot q).payload.length = 44)
      ∧ (∀ r, (Record.dentry r).bytes = frameBytes 0x44 (beBytes 1 (if r.found then 1 else 0) ++ beBytes 2 r.index
            ++ beBytes 1 r.venue ++ beBytes 1 (if r.any then 1 else 0) ++ beBytes 4 r.code.toNat ++ beBytes 2 r.slot)
          ∧ (Record.dentry r).payload.length = 11)
      ∧ (∀ r : FieldReply, r.unpainted.length = 4 → r.text.length ≤ 16 →
          (Record.field r).bytes = frameBytes 0x45 (beBytes 1 (if r.found then 1 else 0) ++ beBytes 1 r.index
            ++ beBytes 1 r.state ++ beBytes 1 r.placement ++ beBytes 2 r.slot ++ beBytes 1 r.item ++ beBytes 1 r.row
            ++ beBytes 1 r.column ++ beBytes 1 r.width ++ beBytes 1 r.palette ++ beBytes 1 (if r.steady then 1 else 0)
            ++ beBytes 1 (if r.dirty then 1 else 0) ++ r.unpainted.flatMap (fun m => beBytes 1 (if m then 1 else 0))
            ++ beBytes 1 r.text.length ++ r.text ++ List.replicate (16 - r.text.length) 0x20)
          ∧ (Record.field r).payload.length = 34)
      ∧ (∀ c, (Record.resetDone c).bytes = frameBytes 0x60 [match c with | .pin => 0 | .message => 1]
          ∧ (Record.resetDone c).payload.length = 1)
      ∧ (∀ v c, (Record.miss v c).bytes = frameBytes 0x61 (beBytes 1 v.val ++ beBytes 4 c.toNat)
          ∧ (Record.miss v c).payload.length = 5)
      ∧ ∀ c, (Record.feed c).bytes = frameBytes 0x62 (beBytes 1 c) ∧ (Record.feed c).payload.length = 1)

/-- The arbiter admits, with two places free, the first waiting class: the BAD_FRAME latch, the OVERRUN latch, the FEED latch with
the feed state of this moment, then the oldest un-notified Miss List record, and clears what it admits. With fewer than two
places free, or with an earlier class waiting, an admission does not come about. An answer that the Interpreter has still to place
follows an admission after which no class waits (State.admissionMade). An answer is placed at once when its request's work is complete
and no class waits, and is otherwise still to be placed; the Interpreter's next step places it, and no other event but the admissions
and the resets touches it (assumption log 23). -/
def Obligations.QueueAdmissionsInOrder : Prop :=
  (∀ s : State, s.link.outbound.length + 2 ≤ 16 →
      (∀ kind, s.link.badFrame = some kind → exec .badFrameAdmission s = .next (State.admissionMade { s with link := { s.link with
          badFrame := none, outbound := s.link.outbound ++ [.reject kind .badFrame] } }))
      ∧ (∀ kind, s.link.badFrame = none → s.link.overrun = some kind →
          exec .overrunAdmission s = .next (State.admissionMade { s with link := { s.link with
            overrun := none, outbound := s.link.outbound ++ [.reject kind .overrun] } }))
      ∧ (s.link.badFrame = none → s.link.overrun = none → s.link.feedLatch = true →
          exec .feedNotice s = .next (State.admissionMade { s with link := { s.link with
            feedLatch := false
            outbound := s.link.outbound ++ [.feed (match s.intake.watch with
              | .off => 0 | .fresh _ _ => 1 | .stale _ => 2)] } }))
      ∧ ∀ (older newer : List Miss) (m : Miss), s.link.badFrame = none → s.link.overrun = none →
          s.link.feedLatch = false → s.directory.misses = older ++ m :: newer → m.notified = false →
          (∀ x ∈ older, x.notified = true) →
          exec .missNotice s = .next (State.admissionMade { s with
            directory := { s.directory with misses := older ++ { m with notified := true } :: newer }
            link := { s.link with outbound := s.link.outbound ++ [.miss m.venue m.code] } }))
    ∧ (∀ s : State,
        (16 < s.link.outbound.length + 2 →
          ∀ c ∈ [Instr.badFrameAdmission, .overrunAdmission, .feedNotice, .missNotice], exec c s = .next s)
        ∧ (s.link.badFrame.isSome = true → ∀ c ∈ [Instr.overrunAdmission, .feedNotice, .missNotice], exec c s = .next s)
        ∧ (s.link.overrun.isSome = true → ∀ c ∈ [Instr.feedNotice, .missNotice], exec c s = .next s)
        ∧ (s.link.feedLatch = true → exec .missNotice s = .next s))
    ∧ (∀ (s : State) (r : Record) (waits : Prop),
        (waits ↔ s.link.badFrame ≠ none ∨ s.link.overrun ≠ none ∨ s.link.feedLatch = true
          ∨ ∃ m ∈ s.directory.misses, m.notified = false) →
        (waits → s.reply r = { s with carrying := .answering r } ∧ s.admissionMade = s)
        ∧ (¬waits → s.reply r = { s with link := { s.link with outbound := s.link.outbound ++ [r] } }
          ∧ (s.carrying = .answering r → s.admissionMade =
            { s with carrying := .idle, link := { s.link with outbound := s.link.outbound ++ [r] } })
          ∧ ((∀ x, s.carrying ≠ .answering x) → s.admissionMade = s)))
    ∧ ∀ (s : State) (r : Record) (c : Instr), s.carrying = .answering r → s.owed = none →
      ((c = .unknownKind ∨ (requestKind c).isSome = true) →
        exec c s = exec c { s with carrying := .idle, link := { s.link with outbound := s.link.outbound ++ [r] } })
      ∧ (requestKind c = none →
        c ∉ [.unknownKind, .badFrameAdmission, .overrunAdmission, .feedNotice, .missNotice, .resetNAsserted] →
        ∀ t, exec c s = .next t → t.carrying = .answering r)

/-- A frame of a kind that is no request's is refused with UNKNOWN_KIND whatever its payload; a STATUS whose reads are made
together answers with the eleven values as they stand. The answer has still to be placed where a class waits (State.answered:
assumption log 23). -/
def Obligations.UnknownKindAndStatus : Prop :=
  (∀ (s : State) (kind : Byte) (p : List Byte), s.Offers kind p →
      (kind ∉ [0x01, 0x02, 0x08, 0x09, 0x0A, 0x0B, 0x0C, 0x0D, 0x0E, 0x10, 0x11, 0x12, 0x13, 0x14, 0x18, 0x19, 0x1A, 0x1B,
        0x1C, 0x20, 0x21, 0x22, 0x23, 0x24, 0x25, 0x28, 0x29, 0x2A, 0x2B, 0x30, 0x31, 0x32, 0x38, 0x39]) →
      exec .unknownKind s = .next (s.answered (.reject kind .unknownKind)))
    ∧ ∀ (s : State) (reads : Nat), s.Offers 0x02 [] → 11 ≤ reads →
      exec (.status reads) s = .next (s.answered (.status
        { cause := match s.link.cause with | .pin => 0 | .message => 1
          feed := match s.intake.watch with | .off => 0 | .fresh _ _ => 1 | .stale _ => 2
          staging := s.intake.staging.length
          misses := s.directory.misses.length
          overflow := if s.directory.overflow then 1 else 0
          dirty := s.painter.dirty.length
          tape := s.tape.queue.length
          late := if s.tape.late then 1 else 0
          inbound := min s.link.inbound.tail.length 7
          budget := s.painter.budget
          flashHeat := s.colour.flashHeat }))

/-- A RELEASE or a STATUS made in two parts, with nothing between them, does what it does whole (assumption log 6). The marks of a
change that are still to come are carried out by the next command that is no taking and no event of the Link Interface's own, before
anything else it does: the lookups of the items in turn, or a SETPAL's sweep and its acknowledgement at its end (assumption log 22). A
RELEASE under way carries them out with its next application, or at its end. The acknowledgement has still to be placed where a class
waits (State.reply: assumption log 23). -/
def Obligations.SplitRequestsMatchWhole : Prop :=
  ((∀ (s : State) (n m : Nat), s.Offers 0x19 [] → n < s.intake.staging.length →
      ∃ t, exec (.release n) s = .next t ∧ exec (.release m) t = exec (.release (n + m)) s)
    ∧ ∀ (s : State) (n m : Nat), s.Offers 0x02 [] → n < 11 →
      ∃ t, exec (.status n) s = .next t ∧ exec (.status m) t = exec (.status (n + m)) s)
    ∧ (∀ (s : State) (c : Instr),
      (requestKind c).isSome = true ∨ c ∈ [.unknownKind, .feedWatchExpiry, .heatScanStep, .frameStart, .rasterReading]
        ∨ (∃ k, c = .bandClear k ∨ c = .curtainRelease k) →
      ((∃ n, c = .release n) → ∀ dealt applied, s.carrying = .release dealt applied → s.intake.staging.length ≤ dealt) →
      (∀ set attr, s.owed = some (.sweep set attr) → s.carrying = .idle) → exec c s = exec c s.settled)
    ∧ ((∀ s : State, s.owed = none → s.settled = s)
      ∧ (∀ (s u : State) (slot : Slot) (items : List Item), items.Nodup → s.owed = some (.lookups slot items) →
          u = { s with owed := none } → s.settled = u.queued (s.newlyShowing slot items))
      ∧ ∀ (s u : State) (set : SetIx) (attr : AttrIx), s.owed = some (.sweep set attr) → u = { s with owed := none } →
        s.settled = (u.queued (s.newlyMarked (fun f => decide (f.palette = set)))).reply (.ack 0x29 attr.val))

/-! ### The Instrument Table -/

/-- DEFINE makes the slot ACTIVE with the format and symbol given and everything else as after reset, marks all nine items, and is
acknowledged with the slot. The answer has still to be placed where a class waits (State.answered: assumption log 23). -/
def Obligations.DefineGivesInstrument : Prop :=
  ∀ (s : State) (slot : Slot) (format : Format) (symbol : List Byte), 1 ≤ symbol.length → symbol.length ≤ 8 →
    s.Offers 0x08 (beBytes 2 slot.val ++ beBytes 1 format.code ++ beBytes 1 symbol.length ++ symbol) →
    exec .define s = .next (((s.setRecord slot
        ⟨.active, symbol.map sanitise, format, none, none, none, none, none, none, 0, 0, .none⟩).queued
      (s.newlyShowing slot [.sym, .last, .net, .pct, .bid, .ask, .high, .low, .vol])).answered (.ack 0x08 slot.val))

/-- CLEAR is refused with IN_USE while a valid directory entry names the slot; otherwise the record takes its reset values with the
format kept, all nine items are marked, and the slot is acknowledged. The answer has still to be placed where a class waits
(State.answered: assumption log 23). -/
def Obligations.ClearEmptiesSlot : Prop :=
  ∀ (s : State) (slot : Slot), s.Offers 0x09 (beBytes 2 slot.val) →
    ((∃ i e, s.directory.entries.get i = some e ∧ e.slot = slot) →
      exec .clear s = .next (s.answered (.reject 0x09 .inUse)))
    ∧ ((∀ i e, s.directory.entries.get i = some e → e.slot ≠ slot) →
      exec .clear s = .next (((s.setRecord slot
          ⟨.empty, [], (s.records.get slot).format, none, none, none, none, none, none, 0, 0, .none⟩).queued
        (s.newlyShowing slot [.sym, .last, .net, .pct, .bid, .ask, .high, .low, .vol])).answered (.ack 0x09 slot.val)))

/-- HALT and RESUME give a defined record the state HALTED or ACTIVE, change nothing else of it, mark SYM, LAST, NET and PCT, and are
refused with BAD_STATE on an EMPTY record. The answer has still to be placed where a class waits (State.answered: assumption log
23). -/
def Obligations.HaltAndResume : Prop :=
  ∀ (s : State) (slot : Slot) (c : Instr) (kind : Byte) (state : RecState),
    ((c, kind, state) : Instr × Byte × RecState) ∈ [(.halt, 0x0A, .halted), (.resume, 0x0B, .active)] →
    s.Offers kind (beBytes 2 slot.val) →
    ((s.records.get slot).state = .empty → exec c s = .next (s.answered (.reject kind .badState)))
    ∧ ((s.records.get slot).state ≠ .empty →
      exec c s = .next (((s.setRecord slot { s.records.get slot with state := state }).queued
        (s.newlyShowing slot [.sym, .last, .net, .pct])).answered (.ack kind slot.val)))

/-- SETREF with present 1 gives the record the price, saturated, as its reference; with present 0 it removes the reference whatever
the price field holds; it marks NET and PCT, and is refused with BAD_STATE on an EMPTY record. The answer has still to be placed
where a class waits (State.answered: assumption log 23). -/
def Obligations.SetrefSetsReference : Prop :=
  ∀ (s : State) (slot : Slot) (present : Bool) (price : Nat), price < 2 ^ 32 →
    s.Offers 0x0C (beBytes 2 slot.val ++ beBytes 1 (flagBit present) ++ beBytes 4 price) →
    ((s.records.get slot).state = .empty → exec .setref s = .next (s.answered (.reject 0x0C .badState)))
    ∧ ((s.records.get slot).state ≠ .empty →
      exec .setref s = .next (((s.setRecord slot { s.records.get slot with
          reference := if present then some (min price 999999999) else none }).queued
        (s.newlyShowing slot [.net, .pct])).answered (.ack 0x0C slot.val)))

/-- OPEN_DAY rolls every record that is not EMPTY, marks every LIVE entry that is not TEXT in index order, and acknowledges the
number of records rolled. The answer has still to be placed where a class waits (State.answered: assumption log 23). -/
def Obligations.OpenDayRollsRecords : Prop :=
  ∀ s : State, s.Offers 0x0D [] →
    exec .openDay s = .next ((({ s with records := Table.ofFn (fun slot =>
        if (s.records.get slot).state = RecState.empty then s.records.get slot
        else ⟨(s.records.get slot).state, (s.records.get slot).symbol, (s.records.get slot).format, none,
          (s.records.get slot).last.or (s.records.get slot).reference, none, none, none, none, 0, 0, .none⟩) }).queued
      (s.newlyMarked (fun f => decide (f.item ≠ Item.text)))).answered
      (.ack 0x0D (s.records.count (fun q : Quote => decide (q.state ≠ RecState.empty)))))

/-- A tick's items change a record, item by item in the order REF, LAST, BID, ASK, VOL: the reference, last, bid and ask take their
items' prices; high and low follow the last price; the volume accumulates the size and is replaced by a VOL item; direction and
heat follow the comparison with the old last price, or with the reference where there was none. The items it marks, each once in
ascending number: LAST, NET and PCT for a LAST item, NET and PCT for a REF item, BID, ASK, HIGH or LOW where it was absent or
changed, and VOL for a VOL item or a size above 0. -/
def Obligations.TickItemsApplied : Prop :=
  (∀ (flash : Nat) (it : TickItems) (q : Quote),
      (applyItems flash it q).state = q.state ∧ (applyItems flash it q).symbol = q.symbol
      ∧ (applyItems flash it q).format = q.format
      ∧ (applyItems flash it q).reference = it.ref.or q.reference
      ∧ (applyItems flash it q).bid = it.bid.or q.bid ∧ (applyItems flash it q).ask = it.ask.or q.ask
      ∧ (it.last = none → (applyItems flash it q).last = q.last ∧ (applyItems flash it q).high = q.high
        ∧ (applyItems flash it q).low = q.low ∧ (applyItems flash it q).direction = q.direction
        ∧ (applyItems flash it q).heat = q.heat ∧ (applyItems flash it q).volume = it.vol.getD q.volume)
      ∧ ∀ new size, it.last = some (new, size) →
        (applyItems flash it q).last = some new
        ∧ (applyItems flash it q).high = some (match q.high with | some h => max h new | none => new)
        ∧ (applyItems flash it q).low = some (match q.low with | some l => min l new | none => new)
        ∧ (applyItems flash it q).volume = it.vol.getD (min (q.volume + size) 4294967295)
        ∧ (∀ old, q.last = some old →
          ((applyItems flash it q).direction, (applyItems flash it q).heat) =
            if old < new then (.up, flash) else if new < old then (.down, flash) else (q.direction, q.heat))
        ∧ (∀ ref, q.last = none → it.ref.or q.reference = some ref →
          ((applyItems flash it q).direction, (applyItems flash it q).heat) =
            if ref < new then (.up, flash) else if new < ref then (.down, flash) else (.none, q.heat))
        ∧ (q.last = none → it.ref.or q.reference = none →
          ((applyItems flash it q).direction, (applyItems flash it q).heat) = (.none, q.heat)))
    ∧ (∀ (it : TickItems) (q : Quote), tickMarks it q =
        [Item.sym, .last, .net, .pct, .bid, .ask, .high, .low, .vol].filter (fun item =>
          match item with
          | .sym => false
          | .last => it.last.isSome
          | .net => it.last.isSome || it.ref.isSome
          | .pct => it.last.isSome || it.ref.isSome
          | .bid => it.bid.isSome
          | .ask => it.ask.isSome
          | .high => it.last.any (fun x => q.high.all (fun h => decide (h < x.1)))
          | .low => it.last.any (fun x => q.low.all (fun l => decide (x.1 < l)))
          | .vol => it.vol.isSome || it.last.any (fun x => decide (0 < x.2))
          | .text => false))

/-- QUERY, DPROBE, MPROBE and MFIND answer with what the part holds and change nothing: the record; the directory entry matching the
pair, or none; the entry, zeros for a FREE one; and the LIVE entry that shows the item on the board or in COMMON, or none. The
answer has still to be placed where a class waits (State.answered: assumption log 23). -/
def Obligations.ProbesAnswer : Prop :=
  (∀ (s : State) (slot : Slot), s.Offers 0x0E (beBytes 2 slot.val) →
      exec .query s = .next (s.answered (.quote slot (s.records.get slot))))
    ∧ (∀ (s : State) (venue : Venue) (code : Code), s.DirectoryLawful →
        s.Offers 0x13 (beBytes 1 venue.val ++ beBytes 4 code.toNat) →
        (∀ i e, s.directory.entries.get i = some e → e.code = code → (e.venue = venue ∨ e.any = true) →
          exec .dprobe s = .next (s.answered (.dentry ⟨true, i.val, e.venue.val, e.any, e.code, e.slot.val⟩)))
        ∧ ((∀ i e, s.directory.entries.get i = some e → ¬(e.code = code ∧ (e.venue = venue ∨ e.any = true))) →
          exec .dprobe s = .next (s.answered (.dentry ⟨false, 0, venue.val, false, code, 0⟩))))
    ∧ (∀ (s : State) (i : EntryIx), s.Offers 0x23 (beBytes 1 i.val) →
        ((s.fields.get i).state = .free → exec .mprobe s = .next (s.answered (.field
          ⟨true, i.val, 0, 0, 0xFFFF, 0, 0, 0, 0, 0, false, false, [false, false, false, false], []⟩)))
        ∧ ((s.fields.get i).state ≠ .free → exec .mprobe s = .next (s.answered (.field
          { found := true
            index := i.val
            state := if (s.fields.get i).state = .live then 1 else 2
            placement := (s.fields.get i).placement.code
            slot := match (s.fields.get i).slot with | some slot => slot.val | none => 0xFFFF
            item := (s.fields.get i).item.code
            row := (s.fields.get i).row
            column := (s.fields.get i).column
            width := (s.fields.get i).width
            palette := (s.fields.get i).palette.val
            steady := (s.fields.get i).steady
            dirty := (s.fields.get i).dirty
            unpainted := (s.fields.get i).unpainted.list
            text := (s.fields.get i).text }))))
    ∧ ∀ (s : State) (slot : Slot) (item : Item) (board : BoardIx), s.LayoutLawful → item ≠ .text →
      s.Offers 0x24 (beBytes 2 slot.val ++ beBytes 1 item.code ++ beBytes 1 board.val) →
      (∀ i, (s.fields.get i).state = .live → (s.fields.get i).slot = some slot → (s.fields.get i).item = item →
        ((s.fields.get i).placement = .board board ∨ (s.fields.get i).placement = .common) →
        exec .mfind s = .next (s.answered (.field (describe true i.val (s.fields.get i)))))
      ∧ ((∀ i, (s.fields.get i).state = .live → (s.fields.get i).slot = some slot → (s.fields.get i).item = item →
          ¬((s.fields.get i).placement = .board board ∨ (s.fields.get i).placement = .common)) →
        exec .mfind s = .next (s.answered (.field
          ⟨false, 0, 0, board.val, slot.val, item.code, 0, 0, 0, 0, false, false, [false, false, false, false], []⟩)))

/-! ### The Symbol Directory -/

/-- INSTALL applies its four checks in order, NO_SLOT, DUPLICATE, CONFLICT and FULL, and otherwise takes the lowest free entry,
removes the misses the new entry matches, and acknowledges the index taken. The answer has still to be placed where a class waits
(State.answered: assumption log 23). -/
def Obligations.InstallAddsEntry : Prop :=
  ∀ (s : State) (e : DirEntry),
    s.Offers 0x10 (beBytes 1 e.venue.val ++ beBytes 1 (flagBit e.any) ++ beBytes 4 e.code.toNat ++ beBytes 2 e.slot.val) →
    ((s.records.get e.slot).state = .empty → exec .install s = .next (s.answered (.reject 0x10 .noSlot)))
    ∧ ((s.records.get e.slot).state ≠ .empty →
        (∃ i x, s.directory.entries.get i = some x ∧ x.venue = e.venue ∧ x.any = e.any ∧ x.code = e.code) →
        exec .install s = .next (s.answered (.reject 0x10 .duplicate)))
    ∧ ((s.records.get e.slot).state ≠ .empty →
        (∀ i x, s.directory.entries.get i = some x → ¬(x.venue = e.venue ∧ x.any = e.any ∧ x.code = e.code)) →
        ((∃ i x, s.directory.entries.get i = some x ∧ x.code = e.code ∧ (e.any = true ∨ x.any = true)) →
          exec .install s = .next (s.answered (.reject 0x10 .conflict)))
        ∧ ((∀ i x, s.directory.entries.get i = some x → ¬(x.code = e.code ∧ (e.any = true ∨ x.any = true))) →
          ((∀ i, s.directory.entries.get i ≠ none) → exec .install s = .next (s.answered (.reject 0x10 .full)))
          ∧ ∀ i, s.directory.entries.get i = none → (∀ j, j < i → s.directory.entries.get j ≠ none) →
            exec .install s = .next (({ s with directory := { s.directory with
              entries := s.directory.entries.set i (some e)
              misses := s.directory.misses.filter (fun m =>
                !(decide (m.code = e.code) && (decide (m.venue = e.venue) || e.any))) } }).answered (.ack 0x10 i.val))))

/-- REMOVE frees the entry of exactly the identity given and acknowledges its index, or acknowledges FFFFh and changes nothing;
DFLUSH frees its selector's group and acknowledges the number freed. The answer has still to be placed where a class waits
(State.answered: assumption log 23). -/
def Obligations.RemoveAndFlushEntries : Prop :=
  (∀ (s : State) (venue : Venue) (any : Bool) (code : Code), s.DirectoryLawful →
      s.Offers 0x11 (beBytes 1 venue.val ++ beBytes 1 (flagBit any) ++ beBytes 4 code.toNat) →
      (∀ i e, s.directory.entries.get i = some e → e.venue = venue → e.any = any → e.code = code →
        exec .remove s = .next (({ s with directory := { s.directory with
          entries := s.directory.entries.set i none } }).answered (.ack 0x11 i.val)))
      ∧ ((∀ i e, s.directory.entries.get i = some e → ¬(e.venue = venue ∧ e.any = any ∧ e.code = code)) →
        exec .remove s = .next (s.answered (.ack 0x11 0xFFFF))))
    ∧ ∀ (s : State) (selector : Nat) (group : DirEntry → Bool), s.Offers 0x12 (beBytes 1 selector) →
      ((selector ≤ 31 ∧ group = fun e => !e.any && decide (e.venue.val = selector))
        ∨ (selector = 0x20 ∧ group = fun e => e.any) ∨ (selector = 0xFF ∧ group = fun _ => true)) →
      exec .dflush s = .next (({ s with directory := { s.directory with
        entries := s.directory.entries.map (fun x : Option DirEntry => x.filter (fun e => !group e)) } }).answered
        (.ack 0x12 (s.directory.entries.count (fun x : Option DirEntry => x.any group))))

/-- MPURGE removes every record of the Miss List and clears the overflow flag, and acknowledges the number removed; with a payload
it is refused with BAD_LENGTH. The answer has still to be placed where a class waits (State.answered: assumption log 23). -/
def Obligations.PurgeEmptiesMissList : Prop :=
  ∀ (s : State) (p : List Byte), s.Offers 0x14 p →
    (p = [] → exec .mpurge s = .next (({ s with directory := { s.directory with misses := [], overflow := false } }).answered
      (.ack 0x14 s.directory.misses.length)))
    ∧ (p ≠ [] → exec .mpurge s = .next (s.answered (.reject 0x14 .badLength)))

/-! ### Quote Intake -/

/-- A well-formed TICK whose lookup misses reloads the Feed Watch and is dropped, without a reply: its pair is found in the Miss
List, joins it, or sets the overflow flag where the list is full. -/
def Obligations.TickMissed : Prop :=
  ∀ (s : State) (venue : Venue) (code : Code) (flags : Byte) (spare : Fin 8) (it : TickItems), it.Fits → it.mask ≠ 0 →
    s.Offers 0x18 (tickBytes venue code flags spare it) →
    (∀ i e, s.directory.entries.get i = some e → ¬(e.code = code ∧ (e.venue = venue ∨ e.any = true))) →
    ((∃ m ∈ s.directory.misses, m.venue = venue ∧ m.code = code) → exec .tick s = .next s.reloaded.takeHead)
    ∧ ((∀ m ∈ s.directory.misses, ¬(m.venue = venue ∧ m.code = code)) →
      (s.directory.misses.length < 8 → exec .tick s = .next { s.reloaded.takeHead with directory :=
        { s.directory with misses := s.directory.misses ++ [⟨venue, code, false⟩] } })
      ∧ (8 ≤ s.directory.misses.length → exec .tick s = .next { s.reloaded.takeHead with directory :=
        { s.directory with overflow := true } }))

/-- A well-formed TICK whose lookup hits reloads the Feed Watch. With HOLD clear it is applied at once to the record of the slot
found, as saturated, with its marks and its print, and without a reply; the marks are still to come where a taking may fall before
them (assumption log 22). With HOLD set it joins the Staging List with its slot, TAPE flag and saturated items; where the list holds
32 it is refused with STAGE_FULL and the reload stands. The answer has still to be placed where a class waits (State.answered:
assumption log 23). -/
def Obligations.TickHits : Prop :=
  (∀ (s : State) (venue : Venue) (code : Code) (flags : Byte) (spare : Fin 8) (it : TickItems) (i : DirIx) (e : DirEntry),
      s.DirectoryLawful → it.Fits → it.mask ≠ 0 → flags.getLsbD 0 = false →
      s.Offers 0x18 (tickBytes venue code flags spare it) →
      s.directory.entries.get i = some e → e.code = code → (e.venue = venue ∨ e.any = true) →
      exec .tick s = .next (s.reloaded.takeHead.applied e.slot (flags.getLsbD 1) it.saturated))
    ∧ (∀ (s : State) (venue : Venue) (code : Code) (flags : Byte) (spare : Fin 8) (it : TickItems) (i : DirIx) (e : DirEntry),
        s.DirectoryLawful → it.Fits → it.mask ≠ 0 → flags.getLsbD 0 = true →
        s.Offers 0x18 (tickBytes venue code flags spare it) →
        s.directory.entries.get i = some e → e.code = code → (e.venue = venue ∨ e.any = true) →
        (s.intake.staging.length < 32 → exec .tick s = .next { s.reloaded.takeHead with intake :=
          { s.reloaded.intake with staging := s.intake.staging ++ [⟨e.slot, flags.getLsbD 1, it.saturated⟩] } })
        ∧ (32 ≤ s.intake.staging.length → exec .tick s = .next (s.reloaded.answered (.reject 0x18 .stageFull))))

/-- RELEASE, with nothing falling between its entries, applies the staged entries oldest first, each that does not name an EMPTY
record, empties the list, and acknowledges the number applied. It ends when the marks of its last application have been sent: where
they are still to come, since a taking may fall before them (assumption log 22), its next step sends them and ends it. The answer
has still to be placed where a class waits (State.answered: assumption log 23). -/
def Obligations.ReleaseAppliesStaged : Prop :=
  ∀ (s u t : State) (n m count : Nat), s.Offers 0x19 [] → s.intake.staging.length ≤ n →
    u = s.intake.staging.foldl (fun (t : State) (e : Staged) =>
      if (t.records.get e.slot).state = RecState.empty then t else t.applied e.slot e.tape e.items) s →
    count = s.intake.staging.countP (fun e : Staged => decide ((s.records.get e.slot).state ≠ RecState.empty)) →
    t = ({ u.settled with intake := { s.intake with staging := [] } }).answered (.ack 0x19 count) →
    (u.owed = none → exec (.release n) s = .next t)
    ∧ (u.owed ≠ none → exec (.release n) s = .next { u.takeHead with carrying := .release n count }
      ∧ exec (.release m) { u.takeHead with carrying := .release n count } = .next t)

/-- DISCARD empties the Staging List, touches nothing else, and acknowledges the number of entries discarded; with a payload it is
refused with BAD_LENGTH. The answer has still to be placed where a class waits (State.answered: assumption log 23). -/
def Obligations.DiscardEmptiesStaging : Prop :=
  ∀ (s : State) (p : List Byte), s.Offers 0x1A p →
    (p = [] → exec .discard s = .next (({ s with intake := { s.intake with staging := [] } }).answered
      (.ack 0x1A s.intake.staging.length)))
    ∧ (p ≠ [] → exec .discard s = .next (s.answered (.reject 0x1A .badLength)))

/-- HEARTBEAT reloads the Feed Watch by the state it finds and does nothing else, and acknowledges the state code after the reload;
with a payload it is refused with BAD_LENGTH and does not reload. The answer has still to be placed where a class waits
(State.answered: assumption log 23). -/
def Obligations.HeartbeatReloads : Prop :=
  ∀ (s : State) (p : List Byte), s.Offers 0x1B p →
    (p = [] → exec .heartbeat s = .next (s.reloaded.answered (.ack 0x1B (if s.intake.watch = .off then 0 else 1))))
    ∧ (p ≠ [] → exec .heartbeat s = .next (s.answered (.reject 0x1B .badLength)))

/-- WATCH takes its period clamped into 1..63 and loads the watch with it: from OFF and in FRESH with no marks and no latch, from
STALE with the recovery's; it acknowledges the period taken, and is refused only for its length. The answer has still to be placed
where a class waits (State.answered: assumption log 23). -/
def Obligations.WatchArms : Prop :=
  ∀ (s : State) (p : List Byte), s.Offers 0x1C p →
    (p.length ≠ 1 → exec .watch s = .next (s.answered (.reject 0x1C .badLength)))
    ∧ ∀ value period : Nat, value < 256 → p = beBytes 1 value → period = max 1 (min value 63) →
      ((s.intake.watch = .off ∨ ∃ old remaining, s.intake.watch = .fresh old remaining) →
        exec .watch s = .next ((s.setWatch (.fresh period period)).answered (.ack 0x1C period)))
      ∧ ((∃ old, s.intake.watch = .stale old) →
        exec .watch s = .next ((s.setWatch (.fresh period period)).feedTold.answered (.ack 0x1C period)))

/-- An expiry in FRESH, with no marks still to come (assumption log 22), makes the watch STALE, marks every LIVE price-bearing entry and
sets the FEED latch; in OFF and in STALE there is none. Once armed, the Feed Watch stays FRESH or STALE until a reset; and no command
but WATCH arms it. -/
def Obligations.FeedWatchLifetime : Prop :=
  (∀ s : State, s.owed = none →
      (∀ period remaining, s.intake.watch = .fresh period remaining →
        exec .feedWatchExpiry s = .next (s.setWatch (.stale period)).feedTold)
      ∧ ((s.intake.watch = .off ∨ ∃ period, s.intake.watch = .stale period) → exec .feedWatchExpiry s = .next s))
    ∧ (∀ (c : Instr) (s t : State), exec c s = .next t →
        (s.intake.watch ≠ .off → c ≠ .resetNAsserted → c ≠ .reset → t.intake.watch ≠ .off)
        ∧ (s.intake.watch = .off → c ≠ .watch → t.intake.watch = .off))

/-! ### Heat and colour -/

/-- A step of the Heat Scan, in a running part with the scan enabled and with no marks still to come, takes one unit of heat from the
record at its position if it is not EMPTY and has heat, advances the position within the limit and loads the interval; when the heat
crosses from 12, 6 or 1, the LIVE entries of the slot that show LAST are marked, and where a taking may fall before the mark it is still
to come (assumption log 22). Otherwise there is no step. -/
def Obligations.HeatScanSteps : Prop :=
  (∀ (s t u : State) (slot : Slot) (q : Quote) (crossing : Bool), slot = s.colour.scan.position → q = s.records.get slot →
      s.link.phase = .running → s.colour.scan.enabled = true → s.owed = none →
      (crossing = true ↔ q.state ≠ .empty ∧ (q.heat = 12 ∨ q.heat = 6 ∨ q.heat = 1)) →
      t = (if q.state = .empty ∨ q.heat = 0 then s else s.setRecord slot { q with heat := q.heat - 1 }) →
      u = { t with colour := { s.colour with scan := { s.colour.scan with
        position := if slot.val + 1 < 64 * 2 ^ s.colour.scan.limitCode.val then Fin.ofNat 512 (slot.val + 1) else 0
        interval := some (25 * 2 ^ s.colour.scan.periodCode.val) } } } →
      (crossing = false → exec .heatScanStep s = .next u)
      ∧ (crossing = true → s.mayTake = false → exec .heatScanStep s = .next (u.queued (s.newlyShowing slot [.last])))
      ∧ (crossing = true → s.mayTake = true → exec .heatScanStep s = .next { u with owed := some (.lookups slot [.last]) }))
    ∧ ∀ s : State, (s.link.phase ≠ .running ∨ s.colour.scan.enabled = false) → s.owed = none → exec .heatScanStep s = .next s

/-- HEATCFG sets the flash heat, clamped into 1..15, and the scan's enable, period code and limit code; a position at or beyond the
new limit becomes 0; the interval restarts where the enable or the period code changes, and runs on otherwise. SETPAL writes one
entry of one palette set; its sweep then marks every LIVE entry of that set in index order, and the attribute is acknowledged at its
end. Where a taking may fall before the sweep, the sweep and the acknowledgement are still to come (assumption log 22). SETATTR writes
one attribute and marks nothing. The answer has still to be placed where a class waits (State.answered: assumption log 23). -/
def Obligations.ColourSettings : Prop :=
  (∀ (s : State) (flash : Nat) (enabled : Bool) (period : Fin 8) (limit : Fin 4), flash < 256 →
      s.Offers 0x2A (beBytes 1 flash ++ beBytes 1 (flagBit enabled) ++ beBytes 1 period.val ++ beBytes 1 limit.val) →
      exec .heatcfg s = .next (({ s with colour := { s.colour with
          flashHeat := max 1 (min flash 15)
          scan := {
            position := if 64 * 2 ^ limit.val ≤ s.colour.scan.position.val then 0 else s.colour.scan.position
            enabled := enabled
            periodCode := period
            limitCode := limit
            interval :=
              if enabled = s.colour.scan.enabled ∧ period = s.colour.scan.periodCode then s.colour.scan.interval
              else if enabled then some (25 * 2 ^ period.val) else none } } }).answered
        (.ack 0x2A (max 1 (min flash 15)))))
    ∧ ((∀ (s u : State) (set : SetIx) (cls : Fin 14) (attr : AttrIx),
          s.Offers 0x29 (beBytes 1 set.val ++ beBytes 1 cls.val ++ beBytes 1 attr.val) →
          u = { s with colour := { s.colour with
            palettes := s.colour.palettes.set set ((s.colour.palettes.get set).set cls attr) } } →
          (s.mayTake = false →
            exec .setpal s = .next ((u.queued (s.newlyMarked (fun f => decide (f.palette = set)))).answered (.ack 0x29 attr.val)))
          ∧ (s.mayTake = true → exec .setpal s = .next { u.takeHead with owed := some (.sweep set attr) }))
        ∧ ∀ (s : State) (i : AttrIx) (a : Attr),
          s.Offers 0x28 (beBytes 1 i.val ++ beBytes 1 a.foreground.val ++ beBytes 1 a.background.val
            ++ beBytes 1 (flagBit a.blink) ++ beBytes 1 (flagBit a.underline)) →
          exec .setattr s = .next (({ s with colour := { s.colour with
            attrs := s.colour.attrs.set i a } }).answered (.ack 0x28 i.val)))

/-- The class of a field by the seven tests in order, with the table of heat and direction for LAST and the table of render outcomes
for NET and PCT. An entry's class is decided from the record of its slot, its render outcome and the feed state of the moment, and no
record is read for TEXT. A palette set gives each class the attribute of its number; the characters the Formatter formed take the
field attribute, and the spaces that justification added take the fill attribute, that of BACK; all spaces of an empty TEXT field count
as added by justification (assumption log 16). -/
def Obligations.ColourClassDecided : Prop :=
  (∀ (item : Item) (steady : Bool) (q : Quote) (outcome : RenderOutcome) (stale : Bool),
      classOf item steady q outcome stale =
        if item = .text then .label
        else if item = .sym then (if q.state = .halted then .halt else .label)
        else if stale = true then .stale
        else if q.state = .halted ∧ item ∈ [Item.last, .net, .pct] then .halt
        else if item = .last then
          (if steady = true ∨ q.heat = 0 ∨ q.direction = .none then .neutral
          else if q.direction = .up then (if q.heat ≤ 5 then .up1 else if q.heat ≤ 11 then .up2 else .up3)
          else (if q.heat ≤ 5 then .dn1 else if q.heat ≤ 11 then .dn2 else .dn3))
        else if item = .net ∨ item = .pct then
          (if outcome = .positive then .pos else if outcome = .negative then .neg
          else if outcome = .zero then .unch else .neutral)
        else .neutral)
    ∧ (∀ (c : ColourUnit) (set : SetIx) (cls : Machine.Class) (number : Fin 14), ((cls, number) : Machine.Class × Fin 14) ∈
        [(.back, 0), (.label, 1), (.neutral, 2), (.up1, 3), (.up2, 4), (.up3, 5), (.dn1, 6), (.dn2, 7), (.dn3, 8), (.pos, 9),
          (.neg, 10), (.unch, 11), (.stale, 12), (.halt, 13)] →
        c.resolve set cls = (c.palettes.get set).get number)
    ∧ ∀ (s : State) (f : Field) (q : Quote) (stale : Bool) (fitted : Fitted),
      (∀ slot, f.slot = some slot → q = s.records.get slot) → (f.slot = none → f.item = .text) →
      (stale = true ↔ ∃ period, s.intake.watch = .stale period) → fitted = (render f.item q f.text f.width).fitted →
      s.fieldClass f = classOf f.item f.steady q (render f.item q f.text f.width).outcome stale
      ∧ s.fieldChars f = List.replicate fitted.lead (0x20, (s.colour.palettes.get f.palette).get 0)
        ++ fitted.text.map (fun c => (c, s.colour.resolve f.palette (s.fieldClass f)))
        ++ List.replicate fitted.trail (0x20, (s.colour.palettes.get f.palette).get 0)

/-! ### The Formatter -/

/-- The natural text of a count in each notation: Dn, F32H, F32E and F8. -/
def Obligations.PriceNotations : Prop :=
  ∀ v : Nat,
    (∀ n : Fin 7, naturalPrice (.dec n) v = decimalText (v / 10 ^ n.val)
      ++ (if n = 0 then [] else
        0x2E :: (List.range n.val).map (fun j => BitVec.ofNat 8 (0x30 + v / 10 ^ (n.val - 1 - j) % 10))))
    ∧ naturalPrice .f32h v = decimalText (v / 64)
      ++ [0x2D, BitVec.ofNat 8 (0x30 + v % 64 / 2 / 10), BitVec.ofNat 8 (0x30 + v % 64 / 2 % 10)]
      ++ (if v % 64 % 2 = 1 then [0x2B] else [])
    ∧ naturalPrice .f32e v = decimalText (v / 256)
      ++ [0x2D, BitVec.ofNat 8 (0x30 + v % 256 / 8 / 10), BitVec.ofNat 8 (0x30 + v % 256 / 8 % 10),
        if v % 256 % 8 = 4 then 0x2B else BitVec.ofNat 8 (0x30 + v % 256 % 8)]
    ∧ naturalPrice .f8 v = decimalText (v / 8) ++ [0x2D, BitVec.ofNat 8 (0x30 + v % 8)]

/-- Every text the Formatter produces is exactly the field's width in characters, each of them printable. A right-justified text is
the first candidate that fits, after spaces, or "#" fill where none fits; SYM and TEXT are followed by spaces or cut. Each item is
rendered from its own part of the record, with its render outcome, and blank where that part is absent or the record EMPTY. The
candidates: a decimal price with fewer and fewer places, each rounded from the original count with halves up; a fractional price as it
is; a net change with its sign, or "UNCH" or "0"; the percent clamped and marked ">" above 999.99, then shortened, its magnitude the
exact quotient rounded with halves away from zero; and a volume in units, K, M and B. No percent text shows more than 999.99. The
spaces of an empty TEXT field count as added by justification (assumption log 16). -/
def Obligations.FormatterFitsAndRounds : Prop :=
  ((∀ (item : Item) (q : Quote) (text : List Byte) (w : Nat), (render item q text w).fitted.chars.length = w)
      ∧ (∀ (item : Item) (q : Quote) (text : List Byte) (w : Nat), (∀ b ∈ q.symbol, printable b = true) →
          (∀ b ∈ text, printable b = true) → ∀ b ∈ (render item q text w).fitted.chars, printable b = true)
      ∧ (∀ f : Fitted, f.chars = List.replicate f.lead 0x20 ++ f.text ++ List.replicate f.trail 0x20)
      ∧ (∀ (w : Nat) (long rest : List (List Byte)) (t : List Byte), (∀ x ∈ long, w < x.length) → t.length ≤ w →
          rightJustify w (long ++ t :: rest) = ⟨w - t.length, t, 0⟩)
      ∧ ∀ (w : Nat) (long : List (List Byte)), (∀ x ∈ long, w < x.length) →
        rightJustify w long = ⟨0, List.replicate w 0x23, 0⟩)
    ∧ ((∀ j v : Nat, 2 * 10 ^ j * roundOff j v ≤ 2 * v + 10 ^ j ∧ 2 * v + 10 ^ j < 2 * 10 ^ j * (roundOff j v + 1))
        ∧ (∀ last reference : Nat, changeMagnitude last reference = max last reference - min last reference)
        ∧ (∀ last reference : Nat, 0 < reference →
            2 * reference * percentMagnitude last reference ≤ 2 * changeMagnitude last reference * 10000 + reference
            ∧ 2 * changeMagnitude last reference * 10000 + reference < 2 * reference * (percentMagnitude last reference + 1))
        ∧ ∀ (sign : List Byte) (m : Nat), ∀ t ∈ percentCandidates sign m, ∃ places q : Nat, ∃ before after : List Byte,
          places ≤ 2 ∧ q * 10 ^ (2 - places) ≤ 99999 ∧ (before = [] ∨ before = sign) ∧ (after = [] ∨ after = [0x25] ∨ after = [0x3E])
            ∧ t = before ++ decText places q ++ after)
    ∧ ((∀ (n : Fin 7) (v : Nat), priceCandidates (.dec n) v = (List.range (n.val + 1)).map (fun j =>
            naturalPrice (.dec (Fin.ofNat 7 (n.val - j))) (roundOff j v)))
        ∧ (∀ f ∈ [Format.f32h, .f32e, .f8], ∀ v : Nat, priceCandidates f v = [naturalPrice f v])
        ∧ (∀ (f : Format) (last reference w : Nat), netCandidates f last reference w =
            if last = reference then [if 4 ≤ w then [0x55, 0x4E, 0x43, 0x48] else [0x30]]
            else (priceCandidates f (changeMagnitude last reference)).map (fun t =>
              (if reference < last then 0x2B else 0x2D) :: t))
        ∧ (∀ (sign : List Byte) (m p : Nat), p = min m 99999 → percentCandidates (if m = 0 then [] else sign) m =
            [(if m = 0 then [] else sign) ++ naturalPrice (.dec 2) p ++ [if 99999 < m then 0x3E else 0x25],
              (if m = 0 then [] else sign) ++ naturalPrice (.dec 2) p,
              (if m = 0 then [] else sign) ++ naturalPrice (.dec 1) (min ((p + 5) / 10) 9999),
              (if m = 0 then [] else sign) ++ naturalPrice (.dec 0) (min ((p + 50) / 100) 999)])
        ∧ ∀ v : Nat, volumeCandidates v = [decimalText v, decimalText ((v + 500) / 1000) ++ [0x4B],
            decimalText ((v + 500000) / 1000000) ++ [0x4D], decimalText ((v + 500000000) / 1000000000) ++ [0x42]])
    ∧ ∀ (q : Quote) (text : List Byte) (w : Nat) (blank : Rendering), blank = ⟨⟨0, List.replicate w 0x20, 0⟩, .blank⟩ →
      render .text q text w = ⟨⟨0, text.take w, w - text.length⟩, .shown⟩
      ∧ (∀ item, item ≠ .text → q.state = .empty → render item q text w = blank)
      ∧ (q.state ≠ .empty →
        render .sym q text w = ⟨⟨0, q.symbol.take w, w - q.symbol.length⟩, .shown⟩
        ∧ render .vol q text w = ⟨rightJustify w (volumeCandidates q.volume), .shown⟩
        ∧ (∀ (item : Item) (price : Option Nat), ((item, price) : Item × Option Nat) ∈
              [(.last, q.last), (.bid, q.bid), (.ask, q.ask), (.high, q.high), (.low, q.low)] →
            (price = none → render item q text w = blank)
            ∧ ∀ v, price = some v → render item q text w = ⟨rightJustify w (priceCandidates q.format v), .shown⟩)
        ∧ ((q.last = none ∨ q.reference = none) → render .net q text w = blank ∧ render .pct q text w = blank)
        ∧ (q.reference = some 0 → render .pct q text w = blank)
        ∧ ∀ (last reference : Nat) (outcome : RenderOutcome), q.last = some last → q.reference = some reference →
          outcome = (if reference < last then .positive else if last < reference then .negative else .zero) →
          render .net q text w = ⟨rightJustify w (netCandidates q.format last reference w), outcome⟩
          ∧ (0 < reference → ∀ m, m = percentMagnitude last reference →
            render .pct q text w = ⟨rightJustify w (percentCandidates
              (if m = 0 then [] else if reference < last then [0x2B] else [0x2D]) m), outcome⟩))

/-! ### The Field Map -/

/-- MAP applies its three checks in order, DUPLICATE, OVERLAP and FULL, and otherwise takes the lowest FREE entry, holds the curtain
of each CURTAINED band the new entry appears in, queues it if it appears in a band, and acknowledges the index; the Painter's work under
way follows the change (State.updateWork: assumption log 10). The answer has still to be placed where a class waits
(State.answered: assumption log 23). -/
def Obligations.MapPlacesField : Prop :=
  ∀ (s : State) (f : Field) (slotField : Nat) (text : List Byte), f.Asked slotField text →
    s.Offers 0x20 (mapBytes f slotField text) →
    ((∃ i, (s.fields.get i).state = .live ∧ f.item ≠ .text ∧ canMeet f.placement (s.fields.get i).placement = true
        ∧ (s.fields.get i).slot = f.slot ∧ (s.fields.get i).item = f.item) →
      exec .map s = .next (s.answered (.reject 0x20 .duplicate)))
    ∧ ((∀ i, (s.fields.get i).state = .live → f.item ≠ .text → canMeet f.placement (s.fields.get i).placement = true →
        ¬((s.fields.get i).slot = f.slot ∧ (s.fields.get i).item = f.item)) →
      ((∃ i, (s.fields.get i).state = .live ∧ canMeet f.placement (s.fields.get i).placement = true
          ∧ sharesCell f (s.fields.get i) = true) →
        exec .map s = .next (s.answered (.reject 0x20 .overlap)))
      ∧ ((∀ i, (s.fields.get i).state = .live → canMeet f.placement (s.fields.get i).placement = true →
          sharesCell f (s.fields.get i) = false) →
        ((∀ i, (s.fields.get i).state ≠ .free) → exec .map s = .next (s.answered (.reject 0x20 .full)))
        ∧ ∀ i, (s.fields.get i).state = .free → (∀ j, j < i → (s.fields.get j).state ≠ .free) →
          exec .map s = .next (({ s with
            fields := s.fields.set i { f with
              dirty := appears s.bands f
              unpainted := Table.ofFn (fun k =>
                appearsIn f (s.bands.get k) && decide ((s.bands.get k).curtain = Curtain.curtained)) }
            bands := s.bands.map (fun b : Band =>
              if appearsIn f b = true ∧ b.curtain = Curtain.curtained then { b with count := b.count + 1 } else b)
            painter := { s.painter with
              dirty := s.painter.dirty ++ (if appears s.bands f then [i] else []) } }).updateWork.answered (.ack 0x20 i.val))))

/-- UNMAP of a LIVE entry makes it ERASING in the Dirty List where it appears in a band, and FREE and out of the list where it
appears in none, its unpainted marks cleared and counted down; a FREE or ERASING entry stays as it is; the index is
acknowledged. The Painter's work under way follows the change (State.updateWork: assumption log 10). The answer has still to be
placed where a class waits (State.answered: assumption log 23). -/
def Obligations.UnmapRemovesField : Prop :=
  ∀ (s : State) (i : EntryIx) (f : Field), f = s.fields.get i → s.Offers 0x21 (beBytes 1 i.val) →
    (f.state ≠ .live → exec .unmap s = .next (s.answered (.ack 0x21 i.val)))
    ∧ (f.state = .live → appears s.bands f = true →
      exec .unmap s = .next (({ s.marksDropped i with
        fields := s.fields.set i { f with state := .erasing, dirty := true, unpainted := Table.replicate 4 false }
        painter := { s.painter with
          dirty := if f.dirty then s.painter.dirty else s.painter.dirty ++ [i] } }).updateWork.answered
        (.ack 0x21 i.val)))
    ∧ (f.state = .live → appears s.bands f = false →
      exec .unmap s = .next (({ s.marksDropped i with
        fields := s.fields.set i Field.free
        painter := { s.painter with dirty := s.painter.dirty.filter (fun j => decide (j ≠ i)) } }).updateWork.answered
        (.ack 0x21 i.val)))

/-- MFLUSH frees every LIVE or ERASING entry of its selector's group, out of the Dirty List and with its marks counted down, then
refreshes in ascending order the bands that showed the group's board, or every band showing a board, and acknowledges the
number freed; the Painter's work under way follows the change (State.updateWork: assumption log 10). The answer has still to be
placed where a class waits (State.answered: assumption log 23). -/
def Obligations.FlushFreesGroup : Prop :=
  ∀ (s u : State) (selector : Nat) (group : Field → Bool) (shown : Band → Bool), s.Offers 0x22 (beBytes 1 selector) →
    ((∃ b : BoardIx, selector = b.val ∧ group = (fun f => decide (f.placement = .board b ∧ f.state ≠ .free))
        ∧ shown = fun x => decide (x.shows = Shows.board b))
      ∨ (selector = 0x10 ∧ group = (fun f => decide (f.placement = .common ∧ f.state ≠ .free))
        ∧ shown = fun x => decide (x.shows ≠ Shows.nothing ∧ x.shows ≠ Shows.tape))
      ∨ (selector = 0xFF ∧ group = (fun f => decide (f.state ≠ .free))
        ∧ shown = fun x => decide (x.shows ≠ Shows.nothing ∧ x.shows ≠ Shows.tape))) →
    u = { s with
      fields := s.fields.map (fun f => if group f then Field.free else f)
      painter := { s.painter with dirty := s.painter.dirty.filter (fun i => !group (s.fields.get i)) }
      bands := Table.ofFn (fun k => { s.bands.get k with
        count := (s.bands.get k).count - s.fields.count (fun f => group f && f.unpainted.get k) }) } →
    exec .mflush s = .next ((([0, 1, 2, 3].filter (fun k => shown (s.bands.get k))).foldl (fun t k => t.refreshed k)
      u).updateWork.answered (.ack 0x22 (s.fields.count group)))

/-- SETTEXT replaces the whole text of a LIVE TEXT entry and queues it if it appears in a band; any other entry is refused with
BAD_STATE. The answer has still to be placed where a class waits (State.answered: assumption log 23). -/
def Obligations.SettextReplacesText : Prop :=
  ∀ (s : State) (i : EntryIx) (f : Field) (text : List Byte), f = s.fields.get i → text.length ≤ 16 →
    s.Offers 0x25 (beBytes 1 i.val ++ beBytes 1 text.length ++ text) →
    (¬(f.state = .live ∧ f.item = .text) → exec .settext s = .next (s.answered (.reject 0x25 .badState)))
    ∧ (f.state = .live → f.item = .text →
      exec .settext s = .next (({ s with
        fields := s.fields.set i { f with text := text.map sanitise, dirty := f.dirty || appears s.bands f }
        painter := { s.painter with
          dirty := s.painter.dirty ++ (if f.dirty = false ∧ appears s.bands f = true then [i] else []) } }).answered
        (.ack 0x25 i.val)))

/-! ### Bands, Painter, Raster and Tape -/

/-- PAINT, TAPESPEED and BLINK take their value clamped, into 1..64, 1..4 and 2..30, and acknowledge it; BLINK also sets the blink
count to 0 and leaves the phase. The answer has still to be placed where a class waits (State.answered: assumption log 23). -/
def Obligations.ClampedSettings : Prop :=
  ∀ (s : State) (value : Nat), value < 256 →
    (s.Offers 0x32 (beBytes 1 value) → exec .paint s = .next (({ s with painter := { s.painter with
      budget := max 1 (min value 64) } }).answered (.ack 0x32 (max 1 (min value 64)))))
    ∧ (s.Offers 0x39 (beBytes 1 value) → exec .tapespeed s = .next (({ s with tape := { s.tape with
      baseSpeed := max 1 (min value 4) } }).answered (.ack 0x39 (max 1 (min value 4)))))
    ∧ (s.Offers 0x2B (beBytes 1 value) → exec .blink s = .next (({ s with raster := { s.raster with
      blinkPeriod := max 2 (min value 30), blinkCount := 0 } }).answered (.ack 0x2B (max 2 (min value 30)))))

/-- BAND refuses rows of another used band with OVERLAP and a tape band of double width with BAD_STATE; otherwise it writes the
geometry, size and background, and with a height of 0 frees the band, with a board shown refreshes it, and else opens it; the
Painter's work under way follows the change (State.updateWork: assumption log 10). The answer has still to be placed where a class
waits (State.answered: assumption log 23). -/
def Obligations.BandSetsGeometry : Prop :=
  ∀ (s u : State) (k : BandIx) (top height : Nat) (size : Fin 4) (background : AttrIx),
    top ≤ 35 → height ≤ 36 → top + height ≤ 36 →
    s.Offers 0x30 (beBytes 1 k.val ++ beBytes 1 top ++ beBytes 1 height ++ beBytes 1 size.val ++ beBytes 1 background.val) →
    ((∃ row j, top ≤ row ∧ row < top + height ∧ j ≠ k ∧ holdsRow row (s.bands.get j) = true) →
      exec .band s = .next (s.answered (.reject 0x30 .overlap)))
    ∧ ((∀ row j, top ≤ row → row < top + height → j ≠ k → holdsRow row (s.bands.get j) = false) →
      (0 < height → (s.bands.get k).shows = Shows.tape → (size = 1 ∨ size = 3) →
        exec .band s = .next (s.answered (.reject 0x30 .badState)))
      ∧ (u = { s with bands := s.bands.modify k (fun b =>
            { b with top := top, height := height, size := size, background := background }) } →
        (height = 0 → exec .band s = .next (({ u with
          fields := clearMarksWhere (fun j => decide (j = k)) s.fields
          bands := u.bands.modify k (fun b =>
            { b with shows := .nothing, curtain := .opened, count := 0, clearPending := false })
          tape := if (s.bands.get k).shows = Shows.tape then ⟨[], [], 0, s.tape.baseSpeed, false⟩ else s.tape }).updateWork.answered
          (.ack 0x30 k.val)))
        ∧ (0 < height → (∃ b, (s.bands.get k).shows = Shows.board b) →
          exec .band s = .next ((u.refreshed k).updateWork.answered (.ack 0x30 k.val)))
        ∧ (0 < height → ((s.bands.get k).shows = Shows.nothing ∨ ((s.bands.get k).shows = Shows.tape ∧ size ≠ 1 ∧ size ≠ 3)) →
          exec .band s = .next (({ u with bands := u.bands.modify k (fun b =>
            { b with curtain := .opened }) }).updateWork.answered (.ack 0x30 k.val)))))

/-- SHOW is refused with BAD_STATE on an unused band, for TAPE with another tape band, and for TAPE in a band of double width. An
accepted SHOW takes the board from any other band that shows it, clears the marks of a board or tears down a tape that the
band leaves, and gives the band its target, refreshing a band that then shows a board; the Painter's work under way follows the
change (State.updateWork: assumption log 10). The answer has still to be placed where a class waits (State.answered: assumption log
23). -/
def Obligations.ShowSetsTarget : Prop :=
  ∀ (s : State) (k : BandIx),
    (∀ target : Nat, target ≤ 0x11 → s.Offers 0x31 (beBytes 1 k.val ++ beBytes 1 target) →
      ((s.bands.get k).height = 0 ∨ (target = 0x11 ∧ ((∃ j, j ≠ k ∧ (s.bands.get j).shows = Shows.tape)
        ∨ (s.bands.get k).size = 1 ∨ (s.bands.get k).size = 3))) →
      exec .showBand s = .next (s.answered (.reject 0x31 .badState)))
    ∧ (0 < (s.bands.get k).height →
      (∀ b : BoardIx, s.Offers 0x31 (beBytes 1 k.val ++ beBytes 1 b.val) →
        exec .showBand s = .next ((({ s with
          fields := clearMarksWhere (fun j =>
            if j = k then decide ((s.bands.get k).shows ≠ Shows.nothing ∧ (s.bands.get k).shows ≠ Shows.tape)
            else decide ((s.bands.get j).shows = Shows.board b)) s.fields
          bands := Table.ofFn (fun j =>
            if j = k then { s.bands.get k with
              shows := .board b
              count := if (s.bands.get k).shows ≠ Shows.nothing ∧ (s.bands.get k).shows ≠ Shows.tape then 0
                else (s.bands.get k).count }
            else if (s.bands.get j).shows = Shows.board b then { s.bands.get j with
              shows := .nothing, count := 0, clearPending := true, curtain := .opened }
            else s.bands.get j)
          tape := if (s.bands.get k).shows = Shows.tape then ⟨[], [], 0, s.tape.baseSpeed, false⟩ else s.tape }).refreshed
          k).updateWork.answered (.ack 0x31 k.val)))
      ∧ (s.Offers 0x31 (beBytes 1 k.val ++ [0x10]) →
        exec .showBand s = .next (({ s with
          fields := if (s.bands.get k).shows ≠ Shows.nothing ∧ (s.bands.get k).shows ≠ Shows.tape
            then clearMarksWhere (fun j => decide (j = k)) s.fields else s.fields
          bands := s.bands.modify k (fun b =>
            { b with shows := .nothing, count := 0, clearPending := true, curtain := .opened })
          tape := if (s.bands.get k).shows = Shows.tape then ⟨[], [], 0, s.tape.baseSpeed, false⟩ else s.tape }).updateWork.answered
          (.ack 0x31 k.val)))
      ∧ (s.Offers 0x31 (beBytes 1 k.val ++ [0x11]) → (s.bands.get k).size ≠ 1 → (s.bands.get k).size ≠ 3 →
        (∀ j, j ≠ k → (s.bands.get j).shows ≠ Shows.tape) →
        ((s.bands.get k).shows = Shows.tape → exec .showBand s = .next (s.answered (.ack 0x31 k.val)))
        ∧ ((s.bands.get k).shows ≠ Shows.tape → exec .showBand s = .next (({ s with
          fields := if (s.bands.get k).shows ≠ Shows.nothing then clearMarksWhere (fun j => decide (j = k)) s.fields
            else s.fields
          bands := s.bands.modify k (fun b =>
            { b with shows := .tape, count := 0, curtain := .opened }) }).updateWork.answered (.ack 0x31 k.val)))))

/-- At a frame start of a running part the blink count advances, or the phase changes over and the count returns to 0; the Raster
takes the Attribute Table and the phase; the tape's work is done where a band shows TAPE; the cells take the reset fill that is
owed; and the Painter begins its first step. A part that does not run only fills the cells and takes the attributes. At the
first active line the Raster takes the band records and the tape window with its attributes, or the initialisation picture
while the part does not run; the Painter's work of the frame is over. The model's own in it: both come about only when the Painter's
work is done (assumption log 10), here with no marks still to come (assumption log 22); a frame whose first active line falls while
the part does not run is wholly black (assumption log 9); the fill falls at the first frame start whatever the phase (assumption
log 12); and a blink count at or beyond the period counts as having reached it (assumption log 18). -/
def Obligations.FrameStartAndReading : Prop :=
  (∀ s : State, s.workDone = true → s.owed = none →
      (s.link.phase ≠ .running → exec .frameStart s = .next { s with
        painter := { s.painter with
          cells := if s.painter.fillOwed then Table.replicate 36 (Table.replicate 96 ⟨0x20, 0, .whole⟩) else s.painter.cells
          fillOwed := false }
        raster := { s.raster with takenAttrs := s.colour.attrs, takenBlink := s.raster.blinkOn } })
      ∧ (s.link.phase = .running → ∀ (on : Bool) (count : Nat),
        ((on, count) = if s.raster.blinkCount + 1 < s.raster.blinkPeriod then (s.raster.blinkOn, s.raster.blinkCount + 1)
          else (!s.raster.blinkOn, 0)) →
        exec .frameStart s = .next { s with
          raster := { s.raster with
            blinkOn := on, blinkCount := count, takenAttrs := s.colour.attrs, takenBlink := on }
          tape := if s.tapeShown then s.tape.frameStart else s.tape
          painter := { s.painter with
            work := .clearing (s.bands.map (fun b : Band => if b.clearPending then .owed else .mayLook)) none
            cells := if s.painter.fillOwed then Table.replicate 36 (Table.replicate 96 ⟨0x20, 0, .whole⟩)
              else s.painter.cells
            fillOwed := false } }.updateWork))
    ∧ (∀ s : State, s.workDone = true → s.owed = none →
        (s.link.phase = .running → exec .rasterReading s = .next { s with
          painter := { s.painter with work := PaintWork.idle }
          raster := { s.raster with reading := some ⟨s.bands, s.tape.ring.take 97, s.tape.offset, s.tape.late,
            (s.colour.palettes.get 0).get 1, (s.colour.palettes.get 0).get 12⟩ } })
        ∧ (s.link.phase ≠ .running → exec .rasterReading s = .next { s with
          painter := { s.painter with work := PaintWork.idle }
          raster := { s.raster with reading := none } }))
    ∧ ∀ s : State, s.workDone = false → s.owed = none → exec .frameStart s = .next s ∧ exec .rasterReading s = .next s

/-- The Tape Unit's frame-start work: the offset advances by the effective speed and at most one character leaves the ring; whole
items move into the ring while they fit, an empty ring taking 97 spaces first; LATE is cleared by a removal that brings the
depth below 16; and an empty queue lets the ring be padded to 97. -/
def Obligations.TapeFrameWork : Prop :=
  ∀ (t : Tape) (speed : Nat) (ring : List Byte), t.offset ≤ 9 → 1 ≤ t.baseSpeed → t.baseSpeed ≤ 4 → t.ring.length ≤ 128 →
    speed = t.baseSpeed + (if t.queue.length ≤ 15 then 0 else if t.queue.length ≤ 47 then 2 else 4) →
    ring = (if t.offset + speed < 10 then t.ring else t.ring.tail) →
    t.frameStart.offset = (t.offset + speed) % 10 ∧ t.frameStart.baseSpeed = t.baseSpeed ∧ t.frameStart.ring.length ≤ 128
    ∧ ∃ (moved : List (List Byte)) (pad : Nat), t.queue = moved ++ t.frameStart.queue
      ∧ t.frameStart.ring = (if ring = [] then List.replicate 97 0x20 else ring) ++ moved.flatten ++ List.replicate pad 0x20
      ∧ (∀ head rest, t.frameStart.queue = head :: rest → pad = 0 ∧ 128 < t.frameStart.ring.length + head.length)
      ∧ (t.frameStart.queue = [] →
        pad = 97 - ((if ring = [] then List.replicate 97 0x20 else ring) ++ moved.flatten).length)
      ∧ t.frameStart.late = (t.late && (moved.isEmpty || decide (16 ≤ t.frameStart.queue.length)))

/-- HSYNC is low on dots 1,008..1,135, VSYNC on lines 3..5, the colour lines are low outside the active picture, and in it they carry
the colour of the row and column the line and dot belong to. Each row is drawn by the band it belongs to: attribute 0's
background outside every used band and in the initialisation picture, the band's background in a band showing NONE, CURTAINED,
or TAPE below its first logical row, the Cell Store in an OPEN band showing a board, and the tape window on the rows of a tape
band's first logical row. A cell's dots are those of its code's glyph at the column and line of its part; a tape position is drawn at
(d + offset) div 10 of the window, a space beyond it, and the late mark stands on dots 0 to 9, not shifted by the offset. A dot is
foreground where the glyph has one or on the underline of glyph line 15, and background while a blinking attribute hides; only the
glyphs of 18h, 19h and 20h to 7Fh have dots, in patterns the manual does not give (assumption log 5). -/
def Obligations.PictureDrawn : Prop :=
  (∀ (s : State) (line dot : Nat), line ≤ 624 → dot ≤ 1199 →
      ((videoOut s line dot).hsync = false ↔ 1008 ≤ dot ∧ dot ≤ 1135)
      ∧ ((videoOut s line dot).vsync = false ↔ 3 ≤ line ∧ line ≤ 5)
      ∧ ((line ≤ 48 ∨ 960 ≤ dot) → (videoOut s line dot).red = false ∧ (videoOut s line dot).green = false
        ∧ (videoOut s line dot).blue = false ∧ (videoOut s line dot).intensity = false)
      ∧ ∀ (row : Fin 36) (column : Fin 96) (x y : Nat), x < 10 → y < 16 → line = 49 + 16 * row.val + y →
        dot = 10 * column.val + x →
        8 * flagBit (videoOut s line dot).intensity + 4 * flagBit (videoOut s line dot).red
          + 2 * flagBit (videoOut s line dot).green + flagBit (videoOut s line dot).blue = (frameColour s row column x y).val)
    ∧ (∀ (s : State) (row : Fin 36) (column : Fin 96) (x y : Nat),
        (s.raster.reading = none → frameColour s row column x y = (s.raster.takenAttrs.get 0).background)
        ∧ ∀ r : Reading, s.raster.reading = some r →
          ((∀ k, holdsRow row.val (r.bands.get k) = false) →
            frameColour s row column x y = (s.raster.takenAttrs.get 0).background)
          ∧ ∀ (k : BandIx) (b : Band), b = r.bands.get k → holdsRow row.val b = true →
            (∀ j, j ≠ k → holdsRow row.val (r.bands.get j) = false) →
            ((b.shows = Shows.nothing ∨ ((∃ board, b.shows = Shows.board board) ∧ b.curtain = Curtain.curtained)
                ∨ (b.shows = Shows.tape ∧ b.top + heightMul b.size ≤ row.val)) →
              frameColour s row column x y = (s.raster.takenAttrs.get b.background).background)
            ∧ ((∃ board, b.shows = Shows.board board) → b.curtain = Curtain.opened →
              frameColour s row column x y =
                cellColour s.raster.takenAttrs s.raster.takenBlink ((s.painter.cells.get row).get column) x y)
            ∧ (b.shows = Shows.tape → row.val < b.top + heightMul b.size →
              frameColour s row column x y =
                tapeColour s.raster.takenAttrs s.raster.takenBlink r b (row.val - b.top) (10 * column.val + x) y))
    ∧ ((∀ (attrs : Table 16 Attr) (on : Bool) (c : Cell) (x y column line : Nat), ((c.part, column, line) : Part × Nat × Nat) ∈
          [(.whole, x, y), (.left, x / 2, y), (.right, 5 + x / 2, y), (.top, x, y / 2), (.bottom, x, 8 + y / 2),
            (.topLeft, x / 2, y / 2), (.topRight, 5 + x / 2, y / 2), (.bottomLeft, x / 2, 8 + y / 2),
            (.bottomRight, 5 + x / 2, 8 + y / 2)] →
          cellColour attrs on c x y = dotColour (attrs.get c.attr) on c.code column line)
      ∧ (∀ (attrs : Table 16 Attr) (on : Bool) (r : Reading) (b : Band) (windowRow d y line : Nat),
          line = (if heightMul b.size = 1 then y else if windowRow = 0 then y / 2 else 8 + y / 2) →
          (r.late = true → d < 10 →
            tapeColour attrs on r b windowRow d y = dotColour (attrs.get r.staleAttr) on 0x7F d line)
          ∧ ((r.late = false ∨ 10 ≤ d) → ∀ code : Byte,
            ((d + r.offset) / 10 < r.window.length → r.window[(d + r.offset) / 10]? = some code) →
            (r.window.length ≤ (d + r.offset) / 10 → code = 0x20) →
            tapeColour attrs on r b windowRow d y = dotColour (attrs.get r.labelAttr) on code ((d + r.offset) % 10) line))
      ∧ ∀ (a : Attr) (on : Bool) (code : Byte) (column line : Nat),
        (a.blink = true → on = false → dotColour a on code column line = a.background)
        ∧ ((a.blink = false ∨ on = true) → dotColour a on code column line =
          if (a.underline = true ∧ line = 15)
              ∨ ((code = 0x18 ∨ code = 0x19 ∨ (0x20 ≤ code.toNat ∧ code.toNat ≤ 0x7F))
                ∧ Config.glyphPattern code column line = true)
            then a.foreground else a.background))

/-- The Painter's clear of a band whose clear pending it finds set, in the first step of its work: the band's rows take spaces in the
band's background attribute, the clear pending is cleared, and where the band shows a board its LIVE entries are swept. A band
with no clear pending, or looked at already, is not cleared. In the third step, which may be begun from the end of the first where the
second finds nothing to take, a CURTAINED band whose count is 0 and whose clear pending is clear becomes OPEN; a band with a count or
a clear pending stays CURTAINED, and before the second step has stopped no band is opened (steps of the work: assumption log 10; with no
marks still to come: assumption log 22). -/
def Obligations.BandClearAndCurtainRelease : Prop :=
  (∀ (s u : State) (k : BandIx) (b : Band) (looks : Table 4 Look) (passed : Option (Table 4 Look)),
      s.painter.work = .clearing looks passed → b = s.bands.get k → s.owed = none →
      ((looks.get k = .looked ∨ b.clearPending = false) → exec (.bandClear k) s = .next s)
      ∧ (looks.get k ≠ .looked → b.clearPending = true →
        u = { s with
          bands := s.bands.set k { b with clearPending := false }
          painter := { s.painter with
            work := .clearing (looks.set k .looked) none
            cells := Table.ofFn (fun row =>
              if b.top ≤ row.val ∧ row.val < b.top + b.height then Table.replicate 96 ⟨0x20, b.background, .whole⟩
              else s.painter.cells.get row) } } →
        ((∃ board, b.shows = Shows.board board) → exec (.bandClear k) s = .next (u.swept k).updateWork)
        ∧ ((b.shows = Shows.nothing ∨ b.shows = Shows.tape) → exec (.bandClear k) s = .next u.updateWork)))
    ∧ (∀ (s : State) (k : BandIx), s.owed = none → ((∀ looks passed, s.painter.work ≠ .clearing looks passed) →
          exec (.bandClear k) s = .next s)
        ∧ ((s.painter.work = .idle ∨ (∃ looks, s.painter.work = .clearing looks none)
            ∨ ∃ budget counted, s.painter.work = .taking budget counted) →
          exec (.curtainRelease k) s = .next s))
    ∧ (∀ (s : State) (k : BandIx) (looks : Table 4 Look), s.owed = none →
        (s.painter.work = .releasing looks ∨ ∃ first, s.painter.work = .clearing first (some looks)) →
        (looks.get k ≠ .looked → (s.bands.get k).curtain = Curtain.curtained → (s.bands.get k).count = 0 →
          (s.bands.get k).clearPending = false →
          exec (.curtainRelease k) s = .next { s with
            bands := s.bands.modify k (fun b => { b with curtain := .opened })
            painter := { s.painter with work := .releasing (looks.set k .looked) } })
        ∧ ((0 < (s.bands.get k).count ∨ (s.bands.get k).clearPending = true ∨ (s.bands.get k).curtain = Curtain.opened) →
          exec (.curtainRelease k) s = .next s)
        ∧ (looks.get k = .looked → exec (.curtainRelease k) s = .next s))

/-- One taking under the budget: the index at the head leaves the Dirty List and its dirty mark is cleared; a LIVE entry that appears in
a band is rendered into every band it appears in, its marks there cleared and counted down, and counted; a LIVE one that appears in none
is discarded; an ERASING one is erased in every band it appears in and freed, counted where it appears in one. The taking begins with the
budget read once no band owes its clear, and stops when the budget is counted or the list is empty (State.updateWork: assumption log
10). An entry appended again is taken in its turn (assumption log 20), and marks still to come stay so (assumption log 22). -/
def Obligations.TakingFromDirtyList : Prop :=
  (∀ (s : State) (budget counted : Nat) (rest : List EntryIx) (i : EntryIx) (f : Field),
      s.painter.work = .taking budget counted → counted < budget → s.painter.dirty = i :: rest →
      f = s.fields.get i →
      (f.state = .live → appears s.bands f = true → exec .taking s = .next { s with
        fields := s.fields.set i { f with
          dirty := false
          unpainted := Table.ofFn (fun k => f.unpainted.get k && !appearsIn f (s.bands.get k)) }
        bands := Table.ofFn (fun k =>
          if appearsIn f (s.bands.get k) = true ∧ f.unpainted.get k = true
            then { s.bands.get k with count := (s.bands.get k).count - 1 } else s.bands.get k)
        painter := { s.painter with
          dirty := rest
          work := .taking budget (counted + 1)
          cells := [0, 1, 2, 3].foldl (fun cells k => if appearsIn f (s.bands.get k)
            then cells.writeAll (fieldCells (s.bands.get k) f.row f.column (s.fieldChars f)) else cells)
            s.painter.cells } }.updateWork)
      ∧ (f.state = .live → appears s.bands f = false → exec .taking s = .next { s with
        fields := s.fields.set i { f with dirty := false }
        painter := { s.painter with dirty := rest, work := .taking budget counted } }.updateWork)
      ∧ (f.state = .erasing → exec .taking s = .next { s with
        fields := s.fields.set i Field.free
        painter := { s.painter with
          dirty := rest
          work := .taking budget (counted + (if appears s.bands f then 1 else 0))
          cells := [0, 1, 2, 3].foldl (fun cells k => if appearsIn f (s.bands.get k)
            then cells.writeAll ((fieldCells (s.bands.get k) f.row f.column
              (List.replicate f.width (0x20, (s.bands.get k).background))).map
                (fun x : Nat × Nat × Cell => (x.1, x.2.1, ⟨0x20, (s.bands.get k).background, .whole⟩)))
            else cells) s.painter.cells } }.updateWork))
    ∧ ((∀ (s : State) (looks : Table 4 Look) (passed : Option (Table 4 Look)), s.painter.work = .clearing looks passed →
          (∀ k, looks.get k = .owed → (s.bands.get k).clearPending = false) →
          exec .taking s = exec .taking { s with painter := { s.painter with work := .taking s.painter.budget 0 } })
        ∧ (∀ (s : State) (looks : Table 4 Look) (passed : Option (Table 4 Look)) (k : BandIx),
          s.painter.work = .clearing looks passed → looks.get k = .owed → (s.bands.get k).clearPending = true →
          exec .taking s = .next s)
        ∧ ∀ (s : State) (budget counted : Nat), s.painter.work = .taking budget counted →
          (budget ≤ counted ∨ s.painter.dirty = []) → exec .taking s = .next { s with painter := { s.painter with
            work := .releasing (s.bands.map (fun b : Band =>
              if b.curtain = Curtain.curtained ∧ b.count = 0 ∧ b.clearPending = false then .owed else .mayLook)) } })

/-- A character at a logical position of a field fills the physical cells of its block that lie in the band's rows and left of
column 96, each with the part of its place in the block, and no other cell is written. -/
def Obligations.FieldExpandsOntoCells : Prop :=
  ∀ (cells : CellStore) (b : Band) (row column : Nat) (chars : List (Byte × AttrIx)) (pr : Fin 36) (pc : Fin 96),
    (∀ (j : Nat) (h : j < chars.length), b.top ≤ pr.val → pr.val < b.top + b.height →
      (pr.val - b.top) / heightMul b.size = row → pc.val / widthMul b.size = column + j →
      ((cells.writeAll (fieldCells b row column chars)).get pr).get pc =
        ⟨chars[j].1, chars[j].2, partAt b.size ((pr.val - b.top) % heightMul b.size) (pc.val % widthMul b.size)⟩)
    ∧ ((pr.val < b.top ∨ b.top + b.height ≤ pr.val ∨ (pr.val - b.top) / heightMul b.size ≠ row
        ∨ pc.val / widthMul b.size < column ∨ column + chars.length ≤ pc.val / widthMul b.size) →
      ((cells.writeAll (fieldCells b row column chars)).get pr).get pc = (cells.get pr).get pc)

/-- The Cell Store changes only at a frame start and in the Painter's clears and takings, and the Painter writes it only within its
frame-start work. -/
def Obligations.CellStoreHoldsStill : Prop :=
  ∀ (c : Instr) (s t : State), exec c s = .next t → t.painter.cells ≠ s.painter.cells →
    (c = .frameStart ∧ s.painter.fillOwed = true) ∨ (((∃ k, c = .bandClear k) ∨ c = .taking) ∧ s.painter.work ≠ .idle)

/-- TAPETEXT is refused with BAD_STATE without a tape band and with FULL, setting LATE, at 64 items; otherwise its text and three
spaces join the queue and the depth is acknowledged. A print is made only for a tick with TAPE and a LAST item while a band
shows TAPE; it joins the queue, with its size below a depth of 32, or is dropped with LATE set at 64. The answer has still to be
placed where a class waits (State.answered: assumption log 23). -/
def Obligations.TapeTakesItems : Prop :=
  (∀ (s : State) (text : List Byte), 1 ≤ text.length → text.length ≤ 32 →
      s.Offers 0x38 (beBytes 1 text.length ++ text) →
      ((∀ k, (s.bands.get k).shows ≠ Shows.tape) → exec .tapetext s = .next (s.answered (.reject 0x38 .badState)))
      ∧ ((∃ k, (s.bands.get k).shows = Shows.tape) →
        (64 ≤ s.tape.queue.length → exec .tapetext s = .next (({ s with tape := { s.tape with
          late := true } }).answered (.reject 0x38 .full)))
        ∧ (s.tape.queue.length < 64 → exec .tapetext s = .next (({ s with tape := { s.tape with
          queue := s.tape.queue ++ [text.map sanitise ++ [0x20, 0x20, 0x20]] } }).answered
          (.ack 0x38 (s.tape.queue.length + 1))))))
    ∧ (∀ (s : State) (slot : Slot) (tape : Bool) (it : TickItems),
        (tape = false ∨ it.last = none ∨ ∀ k, (s.bands.get k).shows ≠ Shows.tape) → s.offerPrint slot tape it = s)
    ∧ (∀ (s : State) (slot : Slot) (it : TickItems) (price size : Nat) (q : Quote), it.last = some (price, size) →
        (∃ k, (s.bands.get k).shows = Shows.tape) → q = s.records.get slot →
        (64 ≤ s.tape.queue.length → s.offerPrint slot true it = { s with tape := { s.tape with late := true } })
        ∧ (s.tape.queue.length < 64 → s.offerPrint slot true it = { s with tape := { s.tape with
          queue := s.tape.queue ++ [q.symbol ++ [0x20] ++ naturalPrice q.format (q.last.getD 0)
            ++ (match q.direction with | .up => [0x18] | .down => [0x19] | .none => [])
            ++ (if 0 < size ∧ s.tape.queue.length < 32 then 0x20 :: compactSize size else []) ++ [0x20, 0x20, 0x20]] } }))
    ∧ ∀ (q : Quote) (size depth : Nat), q.Lawful → q.state ≠ .empty → size ≤ 4294967295 →
      6 ≤ (printText q size depth).length ∧ (printText q size depth).length ≤ 31

/-! ### The laws of the device, kept by every step -/

/-- Every depth the manual bounds stays within its bound, a place is kept for the request being carried out, and a part that does
not run holds nothing in its queues and latches. -/
def Obligations.QueuesStayLawful : Prop :=
  ∀ s t : State, s.QueuesLawful → step s = .next t → t.QueuesLawful

/-- Every record keeps the binding of heat, high and low to its last price, and its ranges. -/
def Obligations.RecordsStayLawful : Prop :=
  ∀ s t : State, s.RecordsLawful → step s = .next t → t.RecordsLawful

/-- No two directory entries match one pair, every valid entry names a defined slot, and the Miss List holds no pair twice and none
that a valid entry matches. -/
def Obligations.DirectoryStaysLawful : Prop :=
  ∀ s t : State, s.DirectoryLawful → step s = .next t → t.DirectoryLawful

/-- The Dirty List holds no index twice and agrees with the dirty marks, and every ERASING entry is in it; while the
Painter takes, its budget is not counted and the list is not empty. -/
def Obligations.DirtyListStaysLawful : Prop :=
  ∀ s t : State, s.DirtyLawful → step s = .next t → t.DirtyLawful

/-- Every band's pending count is the number of marks set for it, and a band showing a board is CURTAINED while its count is above
0 or its clear is pending. -/
def Obligations.CurtainsStayLawful : Prop :=
  ∀ s t : State, s.CurtainsLawful → step s = .next t → t.CurtainsLawful

/-- No two used bands share a row, no board is shown in two bands, and at most one band shows TAPE; no two LIVE entries that can
appear in one band share a logical cell or show the same item of the same slot, and entries that are not FREE keep their ranges. -/
def Obligations.LayoutStaysLawful : Prop :=
  ∀ s t : State, step s = .next t →
    (s.BandsLawful → t.BandsLawful) ∧ (s.LayoutLawful → t.LayoutLawful)

/-- The Tape Queue and the Tape Ring keep their bounds and are empty whenever no band shows TAPE. -/
def Obligations.TapeStaysLawful : Prop :=
  ∀ s t : State, s.TapeLawful → step s = .next t → t.TapeLawful

/-- The settings of the Feed Watch, the Heat Scan, the Painter and the Raster keep their ranges. -/
def Obligations.SettingsStayLawful : Prop :=
  ∀ s t : State, s.SettingsLawful → step s = .next t → t.SettingsLawful

/-- The machine right after reset keeps every law of the device. -/
def Obligations.ResetIsLawful : Prop :=
  State.reset.QueuesLawful ∧ State.reset.RecordsLawful ∧ State.reset.DirectoryLawful ∧ State.reset.DirtyLawful
    ∧ State.reset.CurtainsLawful ∧ State.reset.BandsLawful ∧ State.reset.LayoutLawful ∧ State.reset.TapeLawful
    ∧ State.reset.SettingsLawful

/-! ### Where the Painter's work stands -/

/-- Where the Painter's work stands, after a request that changed the bands or the Dirty List (assumption log 10). The second step
stops at the moment its budget is counted or the list is empty, and the third then looks at the bands that can be opened. During the
first step, the first moment in which no clear is owed and the list is empty is kept, with what the third step looks at from then on.
A band that owed a step its action and gives it cause no more owes nothing. The work is done when the third step, from such a
moment, owes no opening, and an entry marked after the second step has stopped is left for the next frame start. A taking may fall next,
and take an entry, exactly in the second step, and before it where no clear is owed and the list is not empty (assumption log 22). -/
def Obligations.PainterWorkFollows : Prop :=
  (∀ s : State, ∃ work, s.updateWork = { s with painter := { s.painter with work := work } }
      ∧ (s.painter.work = .idle → work = .idle)
      ∧ (∀ budget counted, s.painter.work = .taking budget counted →
        ((budget ≤ counted ∨ s.painter.dirty = []) → work = .releasing (s.bands.map (fun b : Band =>
          if b.curtain = Curtain.curtained ∧ b.count = 0 ∧ b.clearPending = false then .owed else .mayLook)))
        ∧ (counted < budget → s.painter.dirty ≠ [] → work = .taking budget counted))
      ∧ (∀ looks, s.painter.work = .releasing looks → work = .releasing (Table.ofFn (fun k =>
          if looks.get k = .owed ∧ ¬((s.bands.get k).curtain = Curtain.curtained ∧ (s.bands.get k).count = 0
            ∧ (s.bands.get k).clearPending = false) then .mayLook else looks.get k)))
      ∧ ∀ looks passed first, s.painter.work = .clearing looks passed →
        first = Table.ofFn (fun k =>
          if looks.get k = Look.owed ∧ (s.bands.get k).clearPending = false then Look.mayLook else looks.get k) →
        (∀ third, passed = some third → work = .clearing first (some (Table.ofFn (fun k =>
          if third.get k = .owed ∧ ¬((s.bands.get k).curtain = Curtain.curtained ∧ (s.bands.get k).count = 0
            ∧ (s.bands.get k).clearPending = false) then .mayLook else third.get k))))
        ∧ (passed = none → (∀ k, first.get k ≠ .owed) → s.painter.dirty = [] →
          work = .clearing first (some (s.bands.map (fun b : Band =>
            if b.curtain = Curtain.curtained ∧ b.count = 0 ∧ b.clearPending = false then .owed else .mayLook))))
        ∧ (passed = none → ((∃ k, first.get k = .owed) ∨ s.painter.dirty ≠ []) → work = .clearing first none))
    ∧ (∀ s : State, s.workDone = true ↔ s.painter.work = .idle ∨ ∃ looks,
        (s.painter.work = .releasing looks ∨ ∃ first, s.painter.work = .clearing first (some looks))
          ∧ ∀ k, looks.get k = .owed → ¬((s.bands.get k).curtain = Curtain.curtained ∧ (s.bands.get k).count = 0
            ∧ (s.bands.get k).clearPending = false))
    ∧ (∀ s : State, (s.painter.work = .idle ∨ ∃ looks, s.painter.work = .releasing looks) → exec .taking s = .next s)
    ∧ ∀ s : State, s.mayTake = true ↔ (∃ budget counted, s.painter.work = .taking budget counted)
      ∨ ∃ looks passed, s.painter.work = .clearing looks passed ∧ s.painter.dirty ≠ []
        ∧ ∀ k, looks.get k = .owed → (s.bands.get k).clearPending = false
end

