-- ==== Sys2Proof/Laws/Operands.lean ====
section
/-! SUPPORT. The fields of a payload: a number written as bytes is read back, wherever its bytes stand. -/

namespace Sys2Proof.Machine

open Sys2Proof

theorem beNat_append_singleton (bs : List Byte) (b : Byte) : beNat (bs ++ [b]) = beNat bs * 256 + b.toNat := by
  simp [beNat, List.foldl_append]

@[simp] theorem length_beBytes (k n : Nat) : (beBytes k n).length = k := by
  induction k generalizing n with
  | zero => rfl
  | succ k ih => simp [beBytes, ih]

/-- A number that fits its bytes is read back from them. -/
theorem beNat_beBytes {k n : Nat} (h : n < 256 ^ k) : beNat (beBytes k n) = n := by
  induction k generalizing n with
  | zero => simp only [pow_zero, Nat.lt_one_iff] at h; subst h; rfl
  | succ k ih =>
    rw [beBytes, beNat_append_singleton, ih (by rw [pow_succ] at h; omega)]
    simp only [BitVec.toNat_ofNat]
    omega

/-- The bytes of a payload are below 256 to their number. -/
theorem beNat_lt (bs : List Byte) : beNat bs < 256 ^ bs.length := by
  induction bs using List.reverseRecOn with
  | nil => simp [beNat]
  | append_singleton bs b ih =>
    rw [beNat_append_singleton, List.length_append, List.length_singleton, pow_succ]
    have := b.isLt
    omega

/-- A field lies below 256 to its size. -/
theorem fieldAt_lt (p : List Byte) (offset size : Nat) : fieldAt p offset size < 256 ^ size :=
  lt_of_lt_of_le (beNat_lt _) (Nat.pow_le_pow_right (by norm_num) (by simp))

/-- The field that stands first in what is left of a payload. -/
theorem fieldAt_zero_beBytes {k n : Nat} (rest : List Byte) (h : n < 256 ^ k) :
    fieldAt (beBytes k n ++ rest) 0 k = n := by
  have : (beBytes k n ++ rest).take k = beBytes k n := by
    exact List.take_left' (length_beBytes k n)
  simp [fieldAt, this, beNat_beBytes h]

/-- A payload's first field of `k` bytes is passed over by an offset that reaches beyond it. -/
theorem fieldAt_beBytes_append {k n offset size : Nat} (rest : List Byte) (h : k ≤ offset) :
    fieldAt (beBytes k n ++ rest) offset size = fieldAt rest (offset - k) size := by
  simp only [fieldAt, List.drop_append, length_beBytes]
  rw [List.drop_eq_nil_of_le (by simpa using h), List.nil_append]

theorem fieldAt_beBytes {k n : Nat} (h : n < 256 ^ k) : fieldAt (beBytes k n) 0 k = n := by
  simpa using fieldAt_zero_beBytes [] h

/-! ### Reading back the fields of a payload written field by field -/

@[simp] theorem fieldAt_skip {k n offset size : Nat} (rest : List Byte) (h : k ≤ offset) :
    fieldAt (beBytes k n ++ rest) offset size = fieldAt rest (offset - k) size := fieldAt_beBytes_append rest h

theorem fieldAt_skip_last {k n offset size : Nat} (h : k ≤ offset) : fieldAt (beBytes k n) offset size = 0 := by
  simp [fieldAt, List.drop_eq_nil_of_le (show (beBytes k n).length ≤ offset by simpa using h), beNat]

@[simp] theorem fieldAt_fin {n k : Nat} (i : Fin n) (rest : List Byte) (h : n ≤ 256 ^ k) :
    fieldAt (beBytes k i.val ++ rest) 0 k = i.val := fieldAt_zero_beBytes rest (lt_of_lt_of_le i.isLt h)

@[simp] theorem fieldAt_fin_last {n k : Nat} (i : Fin n) (h : n ≤ 256 ^ k) : fieldAt (beBytes k i.val) 0 k = i.val :=
  fieldAt_beBytes (lt_of_lt_of_le i.isLt h)

theorem flagBit_lt (b : Bool) : flagBit b < 256 ^ 1 := by cases b <;> decide

@[simp] theorem fieldAt_flag (b : Bool) (rest : List Byte) : fieldAt (beBytes 1 (flagBit b) ++ rest) 0 1 = flagBit b :=
  fieldAt_zero_beBytes rest (flagBit_lt b)

@[simp] theorem fieldAt_flag_last (b : Bool) : fieldAt (beBytes 1 (flagBit b)) 0 1 = flagBit b := fieldAt_beBytes (flagBit_lt b)

@[simp] theorem fieldAt_code (c : Code) (rest : List Byte) : fieldAt (beBytes 4 c.toNat ++ rest) 0 4 = c.toNat :=
  fieldAt_zero_beBytes rest (by have := c.isLt; omega)

@[simp] theorem fieldAt_code_last (c : Code) : fieldAt (beBytes 4 c.toNat) 0 4 = c.toNat :=
  fieldAt_beBytes (by have := c.isLt; omega)

@[simp] theorem fieldAt_cons_zero (b : Byte) (rest : List Byte) : fieldAt (b :: rest) 0 1 = b.toNat := by
  simp [fieldAt, beNat]

@[simp] theorem fieldAt_cons_skip {offset size : Nat} (b : Byte) (rest : List Byte) (h : 0 < offset) :
    fieldAt (b :: rest) offset size = fieldAt rest (offset - 1) size := by
  obtain ⟨o, rfl⟩ := Nat.exists_eq_succ_of_ne_zero (Nat.pos_iff_ne_zero.mp h)
  simp [fieldAt]

@[simp] theorem flagOf_flagBit (b : Bool) : flagOf (flagBit b) = some b := by cases b <;> rfl

@[simp] theorem inRange_val {n : Nat} (i : Fin n) : inRange n i.val = some i := by simp [inRange]

theorem inRange_of_lt {n m : Nat} (h : m < n) : inRange n m = some ⟨m, h⟩ := dif_pos h

theorem inRange_of_le {n m : Nat} (h : n ≤ m) : inRange n m = none := dif_neg (not_lt.mpr h)

@[simp] theorem flagOf_zero : flagOf 0 = some false := rfl
@[simp] theorem flagOf_one : flagOf 1 = some true := rfl

theorem flagOf_of_two_le {n : Nat} (h : 2 ≤ n) : flagOf n = none := by
  match n, h with
  | n + 2, _ => rfl

@[simp] theorem Format.ofCode_code (f : Format) : Format.ofCode f.code = some f := by
  cases f with
  | dec p => simp [Format.code, Format.ofCode]
  | f32h => rfl
  | f32e => rfl
  | f8 => rfl

@[simp] theorem Item.ofCode_code (i : Item) : Item.ofCode i.code = some i := by cases i <;> rfl

@[simp] theorem Placement.ofCode_code (p : Placement) : Placement.ofCode p.code = some p := by
  cases p with
  | board b => simp [Placement.code, Placement.ofCode]
  | common => rfl

theorem Format.code_lt (f : Format) : f.code < 256 ^ 1 := by
  cases f with
  | dec p => simp only [Format.code]; omega
  | f32h => decide
  | f32e => decide
  | f8 => decide

theorem Item.code_lt (i : Item) : i.code < 256 ^ 1 := by cases i <;> decide

theorem Placement.code_lt (p : Placement) : p.code < 256 ^ 1 := by
  cases p with
  | board b => simp only [Placement.code]; omega
  | common => decide

end Sys2Proof.Machine
end

