-- ==== Sys2Proof/Laws/Table.lean ====
section
/-! SUPPORT. The lemmas of a table's operations. -/

namespace Sys2Proof.Table

variable {n : Nat} {α β : Type}

/-- Two tables that agree at every index are equal. -/
theorem ext_get {t u : Table n α} (h : ∀ i, t.get i = u.get i) : t = u := by
  obtain ⟨l, hl⟩ := t
  obtain ⟨m, hm⟩ := u
  have : l = m := by
    apply List.ext_getElem (hl.trans hm.symm)
    intro i h1 h2
    exact h ⟨i, hl ▸ h1⟩
  subst this
  rfl

@[simp] theorem get_replicate (a : α) (i : Fin n) : (replicate n a).get i = a := by simp [replicate, get]

@[simp] theorem get_set_self (t : Table n α) (i : Fin n) (a : α) : (t.set i a).get i = a := by simp [set, get]

theorem get_set_ne (t : Table n α) {i j : Fin n} (a : α) (h : j ≠ i) : (t.set i a).get j = t.get j := by
  have : i.val ≠ j.val := fun e => h (Fin.ext e.symm)
  simp [set, get, List.getElem_set_ne this]

theorem get_set (t : Table n α) (i j : Fin n) (a : α) : (t.set i a).get j = if j = i then a else t.get j := by
  split
  · subst j; simp
  · exact get_set_ne t a ‹_›

@[simp] theorem set_get (t : Table n α) (i : Fin n) : t.set i (t.get i) = t := by
  apply ext_get; intro j; rw [get_set]; split <;> simp [*]

@[simp] theorem set_set (t : Table n α) (i : Fin n) (a b : α) : (t.set i a).set i b = t.set i b := by
  apply ext_get; intro j; simp only [get_set]; split <;> rfl

@[simp] theorem get_modify_self (t : Table n α) (i : Fin n) (f : α → α) : (t.modify i f).get i = f (t.get i) := by
  simp [modify]

theorem get_modify_ne (t : Table n α) {i j : Fin n} (f : α → α) (h : j ≠ i) : (t.modify i f).get j = t.get j :=
  get_set_ne t _ h

theorem get_modify (t : Table n α) (i j : Fin n) (f : α → α) :
    (t.modify i f).get j = if j = i then f (t.get i) else t.get j := get_set t i j _

@[simp] theorem get_map (f : α → β) (t : Table n α) (i : Fin n) : (t.map f).get i = f (t.get i) := by simp [map, get]

@[simp] theorem get_ofFn (f : Fin n → α) (i : Fin n) : (ofFn f).get i = f i := by simp [ofFn, get]

/-- The things of a table are those at its indices. -/
theorem mem_list {t : Table n α} {a : α} : a ∈ t.list ↔ ∃ i, t.get i = a := by
  constructor
  · intro h
    obtain ⟨k, hk, rfl⟩ := List.getElem_of_mem h
    exact ⟨⟨k, t.length_eq ▸ hk⟩, rfl⟩
  · rintro ⟨i, rfl⟩
    exact List.getElem_mem _

theorem any_eq_true {t : Table n α} {p : α → Bool} : t.any p = true ↔ ∃ i, p (t.get i) = true := by
  simp only [any, List.any_eq_true, mem_list]
  constructor
  · rintro ⟨_, ⟨i, rfl⟩, h⟩; exact ⟨i, h⟩
  · rintro ⟨i, h⟩; exact ⟨_, ⟨i, rfl⟩, h⟩

theorem any_eq_false {t : Table n α} {p : α → Bool} : t.any p = false ↔ ∀ i, p (t.get i) = false := by
  rw [← Bool.not_eq_true, any_eq_true]; simp

/-- The list of a table is that of its indices' things. -/
theorem list_eq_map (t : Table n α) : t.list = (List.finRange n).map t.get := by
  apply List.ext_getElem
  · simp [t.length_eq]
  · intro i h1 h2
    simp [get]

/-- The indices with a property are those of all the indices, filtered: ascending and without repeats. -/
theorem indices_eq_filter (t : Table n α) (p : α → Bool) : t.indices p = (List.finRange n).filter (fun i => p (t.get i)) := by
  have hz : t.list.zip (List.finRange n) = (List.finRange n).map (fun i => (t.get i, i)) := by
    rw [list_eq_map, List.zip_map_left, List.zip_eq_zipWith, List.zipWith_self, List.map_map]
    rfl
  rw [indices, hz, List.filter_map, List.map_map]
  simp [Function.comp_def]

@[simp] theorem mem_indices {t : Table n α} {p : α → Bool} {i : Fin n} : i ∈ t.indices p ↔ p (t.get i) = true := by
  simp [indices_eq_filter]

theorem indices_nodup (t : Table n α) (p : α → Bool) : (t.indices p).Nodup := by
  rw [indices_eq_filter]; exact (List.nodup_finRange n).filter _

theorem indices_sorted (t : Table n α) (p : α → Bool) : (t.indices p).Pairwise (· < ·) := by
  rw [indices_eq_filter]
  exact (List.pairwise_lt_finRange n).filter _

/-- The lowest index with a property has it, and every lower index lacks it. -/
theorem lowest_eq_some {t : Table n α} {p : α → Bool} {i : Fin n} :
    t.lowest p = some i ↔ p (t.get i) = true ∧ ∀ j, j < i → p (t.get j) = false := by
  have hs := indices_sorted t p
  unfold lowest
  constructor
  · intro h
    obtain ⟨tl, he⟩ := List.head?_eq_some_iff.mp h
    have hi : i ∈ t.indices p := by rw [he]; simp
    refine ⟨mem_indices.mp hi, fun j hj => ?_⟩
    rw [← Bool.not_eq_true]; intro hp
    have hm : j ∈ i :: tl := he ▸ mem_indices.mpr hp
    rw [he] at hs
    rcases List.mem_cons.mp hm with rfl | hm
    · exact absurd hj (lt_irrefl _)
    · exact absurd hj (not_lt.mpr (le_of_lt (List.rel_of_pairwise_cons hs hm)))
  · rintro ⟨hp, hl⟩
    have hi : i ∈ t.indices p := mem_indices.mpr hp
    cases he : t.indices p with
    | nil => rw [he] at hi; cases hi
    | cons a tl =>
      rw [he] at hi hs
      rcases List.mem_cons.mp hi with rfl | hm
      · rfl
      · have ha : p (t.get a) = true := mem_indices.mp (he ▸ List.mem_cons_self)
        rw [hl a (List.rel_of_pairwise_cons hs hm)] at ha
        cases ha

theorem lowest_eq_none {t : Table n α} {p : α → Bool} : t.lowest p = none ↔ ∀ i, p (t.get i) = false := by
  unfold lowest
  rw [List.head?_eq_none_iff, List.eq_nil_iff_forall_not_mem]
  simp

theorem count_eq (t : Table n α) (p : α → Bool) : t.count p = ((List.finRange n).filter (fun i => p (t.get i))).length := by
  rw [count, list_eq_map, List.countP_map, List.countP_eq_length_filter]; rfl

/-- A count is unchanged where the property is. -/
theorem count_congr {t u : Table n α} {p q : α → Bool} (h : ∀ i, p (t.get i) = q (u.get i)) : t.count p = u.count q := by
  simp [count_eq, h]

/-- A write changes a count by what it changes at its index. -/
theorem count_set (t : Table n α) (i : Fin n) (a : α) (p : α → Bool) :
    (t.set i a).count p + (if p (t.get i) then 1 else 0) = t.count p + (if p a then 1 else 0) := by
  have hlt : i.val < t.list.length := by rw [t.length_eq]; exact i.isLt
  have hset := List.countP_set (p := p) (l := t.list) (i := i.val) (a := a) hlt
  have hle : (if p t.list[i.val] = true then 1 else 0) ≤ t.list.countP p := by
    split
    · exact List.countP_pos_iff.mpr ⟨_, List.getElem_mem hlt, ‹_›⟩
    · exact Nat.zero_le _
  change List.countP p (t.list.set i.val a) + (if p t.list[i.val] = true then 1 else 0) = _
  rw [hset]
  simp only [count]
  omega

end Sys2Proof.Table
end

