-- ==== Sys2Proof/Laws/State.lean ====
section
/-! SUPPORT. What each named update of State leaves in each field: one lemma per field per update, true by unfolding. -/

namespace Sys2Proof.Machine

open Sys2Proof

/-! ### takeHead -/

@[simp] theorem State.takeHead_pending (s : State) : s.takeHead.pending = s.pending := rfl
@[simp] theorem State.takeHead_link (s : State) : s.takeHead.link = { s.link with inbound := s.link.inbound.tail } := rfl
@[simp] theorem State.takeHead_carrying (s : State) : s.takeHead.carrying = s.carrying := rfl
@[simp] theorem State.takeHead_classWaits (s : State) :
    (s.takeHead).classWaits = s.classWaits := rfl
@[simp] theorem State.takeHead_owed (s : State) : s.takeHead.owed = s.owed := rfl
@[simp] theorem State.takeHead_records (s : State) : s.takeHead.records = s.records := rfl
@[simp] theorem State.takeHead_directory (s : State) : s.takeHead.directory = s.directory := rfl
@[simp] theorem State.takeHead_intake (s : State) : s.takeHead.intake = s.intake := rfl
@[simp] theorem State.takeHead_fields (s : State) : s.takeHead.fields = s.fields := rfl
@[simp] theorem State.takeHead_colour (s : State) : s.takeHead.colour = s.colour := rfl
@[simp] theorem State.takeHead_painter (s : State) : s.takeHead.painter = s.painter := rfl
@[simp] theorem State.takeHead_bands (s : State) : s.takeHead.bands = s.bands := rfl
@[simp] theorem State.takeHead_raster (s : State) : s.takeHead.raster = s.raster := rfl
@[simp] theorem State.takeHead_tape (s : State) : s.takeHead.tape = s.tape := rfl

/-! ### place -/

@[simp] theorem State.place_link (r : Record) (s : State) :
    (s.place r).link = { s.link with outbound := s.link.outbound ++ [r] } := rfl
@[simp] theorem State.place_pending (r : Record) (s : State) : (s.place r).pending = s.pending := rfl
@[simp] theorem State.place_carrying (r : Record) (s : State) : (s.place r).carrying = s.carrying := rfl
@[simp] theorem State.place_classWaits (r : Record) (s : State) :
    (s.place r).classWaits = s.classWaits := rfl
@[simp] theorem State.place_owed (r : Record) (s : State) : (s.place r).owed = s.owed := rfl
@[simp] theorem State.place_records (r : Record) (s : State) : (s.place r).records = s.records := rfl
@[simp] theorem State.place_directory (r : Record) (s : State) : (s.place r).directory = s.directory := rfl
@[simp] theorem State.place_intake (r : Record) (s : State) : (s.place r).intake = s.intake := rfl
@[simp] theorem State.place_fields (r : Record) (s : State) : (s.place r).fields = s.fields := rfl
@[simp] theorem State.place_colour (r : Record) (s : State) : (s.place r).colour = s.colour := rfl
@[simp] theorem State.place_painter (r : Record) (s : State) : (s.place r).painter = s.painter := rfl
@[simp] theorem State.place_bands (r : Record) (s : State) : (s.place r).bands = s.bands := rfl
@[simp] theorem State.place_raster (r : Record) (s : State) : (s.place r).raster = s.raster := rfl
@[simp] theorem State.place_tape (r : Record) (s : State) : (s.place r).tape = s.tape := rfl

/-! ### reply -/

@[simp] theorem State.reply_pending (r : Record) (s : State) : (s.reply r).pending = s.pending := rfl
@[simp] theorem State.reply_link (r : Record) (s : State) :
    (s.reply r).link = { s.link with outbound := s.link.outbound ++ (if s.classWaits then [] else [r]) } := rfl
@[simp] theorem State.reply_carrying (r : Record) (s : State) :
    (s.reply r).carrying = if s.classWaits then .answering r else s.carrying := rfl
@[simp] theorem State.reply_classWaits (r : Record) (s : State) :
    (s.reply r).classWaits = s.classWaits := rfl
@[simp] theorem State.reply_owed (r : Record) (s : State) : (s.reply r).owed = s.owed := rfl
@[simp] theorem State.reply_records (r : Record) (s : State) : (s.reply r).records = s.records := rfl
@[simp] theorem State.reply_directory (r : Record) (s : State) : (s.reply r).directory = s.directory := rfl
@[simp] theorem State.reply_intake (r : Record) (s : State) : (s.reply r).intake = s.intake := rfl
@[simp] theorem State.reply_fields (r : Record) (s : State) : (s.reply r).fields = s.fields := rfl
@[simp] theorem State.reply_colour (r : Record) (s : State) : (s.reply r).colour = s.colour := rfl
@[simp] theorem State.reply_painter (r : Record) (s : State) : (s.reply r).painter = s.painter := rfl
@[simp] theorem State.reply_bands (r : Record) (s : State) : (s.reply r).bands = s.bands := rfl
@[simp] theorem State.reply_raster (r : Record) (s : State) : (s.reply r).raster = s.raster := rfl
@[simp] theorem State.reply_tape (r : Record) (s : State) : (s.reply r).tape = s.tape := rfl

/-! ### answered -/

@[simp] theorem State.answered_pending (r : Record) (s : State) : (s.answered r).pending = s.pending := rfl
@[simp] theorem State.answered_link (r : Record) (s : State) :
    (s.answered r).link = { s.link with
      inbound := s.link.inbound.tail, outbound := s.link.outbound ++ (if s.classWaits then [] else [r]) } := rfl
@[simp] theorem State.answered_carrying (r : Record) (s : State) :
    (s.answered r).carrying = if s.classWaits then .answering r else s.carrying := rfl
@[simp] theorem State.answered_classWaits (r : Record) (s : State) :
    (s.answered r).classWaits = s.classWaits := rfl
@[simp] theorem State.answered_owed (r : Record) (s : State) : (s.answered r).owed = s.owed := rfl
@[simp] theorem State.answered_records (r : Record) (s : State) : (s.answered r).records = s.records := rfl
@[simp] theorem State.answered_directory (r : Record) (s : State) : (s.answered r).directory = s.directory := rfl
@[simp] theorem State.answered_intake (r : Record) (s : State) : (s.answered r).intake = s.intake := rfl
@[simp] theorem State.answered_fields (r : Record) (s : State) : (s.answered r).fields = s.fields := rfl
@[simp] theorem State.answered_colour (r : Record) (s : State) : (s.answered r).colour = s.colour := rfl
@[simp] theorem State.answered_painter (r : Record) (s : State) : (s.answered r).painter = s.painter := rfl
@[simp] theorem State.answered_bands (r : Record) (s : State) : (s.answered r).bands = s.bands := rfl
@[simp] theorem State.answered_raster (r : Record) (s : State) : (s.answered r).raster = s.raster := rfl
@[simp] theorem State.answered_tape (r : Record) (s : State) : (s.answered r).tape = s.tape := rfl

/-! ### setLink -/

@[simp] theorem State.setLink_pending (l : Link) (s : State) : (s.setLink l).pending = s.pending := rfl
@[simp] theorem State.setLink_link (l : Link) (s : State) : (s.setLink l).link = l := rfl
@[simp] theorem State.setLink_carrying (l : Link) (s : State) : (s.setLink l).carrying = s.carrying := rfl
@[simp] theorem State.setLink_owed (l : Link) (s : State) : (s.setLink l).owed = s.owed := rfl
@[simp] theorem State.setLink_records (l : Link) (s : State) : (s.setLink l).records = s.records := rfl
@[simp] theorem State.setLink_directory (l : Link) (s : State) : (s.setLink l).directory = s.directory := rfl
@[simp] theorem State.setLink_intake (l : Link) (s : State) : (s.setLink l).intake = s.intake := rfl
@[simp] theorem State.setLink_fields (l : Link) (s : State) : (s.setLink l).fields = s.fields := rfl
@[simp] theorem State.setLink_colour (l : Link) (s : State) : (s.setLink l).colour = s.colour := rfl
@[simp] theorem State.setLink_painter (l : Link) (s : State) : (s.setLink l).painter = s.painter := rfl
@[simp] theorem State.setLink_bands (l : Link) (s : State) : (s.setLink l).bands = s.bands := rfl
@[simp] theorem State.setLink_raster (l : Link) (s : State) : (s.setLink l).raster = s.raster := rfl
@[simp] theorem State.setLink_tape (l : Link) (s : State) : (s.setLink l).tape = s.tape := rfl

/-! ### setRecord -/

@[simp] theorem State.setRecord_pending (slot : Slot) (q : Quote) (s : State) :
    (s.setRecord slot q).pending = s.pending := rfl
@[simp] theorem State.setRecord_link (slot : Slot) (q : Quote) (s : State) : (s.setRecord slot q).link = s.link := rfl
@[simp] theorem State.setRecord_carrying (slot : Slot) (q : Quote) (s : State) :
    (s.setRecord slot q).carrying = s.carrying := rfl
@[simp] theorem State.setRecord_classWaits (slot : Slot) (q : Quote) (s : State) :
    (s.setRecord slot q).classWaits = s.classWaits := rfl
@[simp] theorem State.setRecord_owed (slot : Slot) (q : Quote) (s : State) :
    (s.setRecord slot q).owed = s.owed := rfl
@[simp] theorem State.setRecord_records (slot : Slot) (q : Quote) (s : State) :
    (s.setRecord slot q).records = s.records.set slot q := rfl
@[simp] theorem State.setRecord_directory (slot : Slot) (q : Quote) (s : State) :
    (s.setRecord slot q).directory = s.directory := rfl
@[simp] theorem State.setRecord_intake (slot : Slot) (q : Quote) (s : State) : (s.setRecord slot q).intake = s.intake := rfl
@[simp] theorem State.setRecord_fields (slot : Slot) (q : Quote) (s : State) : (s.setRecord slot q).fields = s.fields := rfl
@[simp] theorem State.setRecord_colour (slot : Slot) (q : Quote) (s : State) : (s.setRecord slot q).colour = s.colour := rfl
@[simp] theorem State.setRecord_painter (slot : Slot) (q : Quote) (s : State) :
    (s.setRecord slot q).painter = s.painter := rfl
@[simp] theorem State.setRecord_bands (slot : Slot) (q : Quote) (s : State) : (s.setRecord slot q).bands = s.bands := rfl
@[simp] theorem State.setRecord_raster (slot : Slot) (q : Quote) (s : State) : (s.setRecord slot q).raster = s.raster := rfl
@[simp] theorem State.setRecord_tape (slot : Slot) (q : Quote) (s : State) : (s.setRecord slot q).tape = s.tape := rfl

/-! ### setWatch -/

@[simp] theorem State.setWatch_pending (w : FeedWatch) (s : State) : (s.setWatch w).pending = s.pending := rfl
@[simp] theorem State.setWatch_link (w : FeedWatch) (s : State) : (s.setWatch w).link = s.link := rfl
@[simp] theorem State.setWatch_carrying (w : FeedWatch) (s : State) : (s.setWatch w).carrying = s.carrying := rfl
@[simp] theorem State.setWatch_classWaits (w : FeedWatch) (s : State) :
    (s.setWatch w).classWaits = s.classWaits := rfl
@[simp] theorem State.setWatch_owed (w : FeedWatch) (s : State) : (s.setWatch w).owed = s.owed := rfl
@[simp] theorem State.setWatch_records (w : FeedWatch) (s : State) : (s.setWatch w).records = s.records := rfl
@[simp] theorem State.setWatch_directory (w : FeedWatch) (s : State) : (s.setWatch w).directory = s.directory := rfl
@[simp] theorem State.setWatch_intake (w : FeedWatch) (s : State) :
    (s.setWatch w).intake = { s.intake with watch := w } := rfl
@[simp] theorem State.setWatch_fields (w : FeedWatch) (s : State) : (s.setWatch w).fields = s.fields := rfl
@[simp] theorem State.setWatch_colour (w : FeedWatch) (s : State) : (s.setWatch w).colour = s.colour := rfl
@[simp] theorem State.setWatch_painter (w : FeedWatch) (s : State) : (s.setWatch w).painter = s.painter := rfl
@[simp] theorem State.setWatch_bands (w : FeedWatch) (s : State) : (s.setWatch w).bands = s.bands := rfl
@[simp] theorem State.setWatch_raster (w : FeedWatch) (s : State) : (s.setWatch w).raster = s.raster := rfl
@[simp] theorem State.setWatch_tape (w : FeedWatch) (s : State) : (s.setWatch w).tape = s.tape := rfl

/-! ### setScan -/

@[simp] theorem State.setScan_pending (scan : HeatScan) (s : State) : (s.setScan scan).pending = s.pending := rfl
@[simp] theorem State.setScan_link (scan : HeatScan) (s : State) : (s.setScan scan).link = s.link := rfl
@[simp] theorem State.setScan_carrying (scan : HeatScan) (s : State) : (s.setScan scan).carrying = s.carrying := rfl
@[simp] theorem State.setScan_classWaits (scan : HeatScan) (s : State) :
    (s.setScan scan).classWaits = s.classWaits := rfl
@[simp] theorem State.setScan_owed (scan : HeatScan) (s : State) : (s.setScan scan).owed = s.owed := rfl
@[simp] theorem State.setScan_records (scan : HeatScan) (s : State) : (s.setScan scan).records = s.records := rfl
@[simp] theorem State.setScan_directory (scan : HeatScan) (s : State) : (s.setScan scan).directory = s.directory := rfl
@[simp] theorem State.setScan_intake (scan : HeatScan) (s : State) : (s.setScan scan).intake = s.intake := rfl
@[simp] theorem State.setScan_fields (scan : HeatScan) (s : State) : (s.setScan scan).fields = s.fields := rfl
@[simp] theorem State.setScan_colour (scan : HeatScan) (s : State) :
    (s.setScan scan).colour = { s.colour with scan := scan } := rfl
@[simp] theorem State.setScan_painter (scan : HeatScan) (s : State) : (s.setScan scan).painter = s.painter := rfl
@[simp] theorem State.setScan_bands (scan : HeatScan) (s : State) : (s.setScan scan).bands = s.bands := rfl
@[simp] theorem State.setScan_raster (scan : HeatScan) (s : State) : (s.setScan scan).raster = s.raster := rfl
@[simp] theorem State.setScan_tape (scan : HeatScan) (s : State) : (s.setScan scan).tape = s.tape := rfl

/-! ### setWork -/

@[simp] theorem State.setWork_pending (w : PaintWork) (s : State) : (s.setWork w).pending = s.pending := rfl
@[simp] theorem State.setWork_link (w : PaintWork) (s : State) : (s.setWork w).link = s.link := rfl
@[simp] theorem State.setWork_carrying (w : PaintWork) (s : State) : (s.setWork w).carrying = s.carrying := rfl
@[simp] theorem State.setWork_classWaits (w : PaintWork) (s : State) :
    (s.setWork w).classWaits = s.classWaits := rfl
@[simp] theorem State.setWork_owed (w : PaintWork) (s : State) : (s.setWork w).owed = s.owed := rfl
@[simp] theorem State.setWork_records (w : PaintWork) (s : State) : (s.setWork w).records = s.records := rfl
@[simp] theorem State.setWork_directory (w : PaintWork) (s : State) : (s.setWork w).directory = s.directory := rfl
@[simp] theorem State.setWork_intake (w : PaintWork) (s : State) : (s.setWork w).intake = s.intake := rfl
@[simp] theorem State.setWork_fields (w : PaintWork) (s : State) : (s.setWork w).fields = s.fields := rfl
@[simp] theorem State.setWork_colour (w : PaintWork) (s : State) : (s.setWork w).colour = s.colour := rfl
@[simp] theorem State.setWork_painter (w : PaintWork) (s : State) :
    (s.setWork w).painter = { s.painter with work := w } := rfl
@[simp] theorem State.setWork_bands (w : PaintWork) (s : State) : (s.setWork w).bands = s.bands := rfl
@[simp] theorem State.setWork_raster (w : PaintWork) (s : State) : (s.setWork w).raster = s.raster := rfl
@[simp] theorem State.setWork_tape (w : PaintWork) (s : State) : (s.setWork w).tape = s.tape := rfl

/-! ### updateWork -/

@[simp] theorem State.updateWork_pending (s : State) : s.updateWork.pending = s.pending := rfl
@[simp] theorem State.updateWork_link (s : State) : s.updateWork.link = s.link := rfl
@[simp] theorem State.updateWork_carrying (s : State) : s.updateWork.carrying = s.carrying := rfl
@[simp] theorem State.updateWork_classWaits (s : State) :
    (s.updateWork).classWaits = s.classWaits := rfl
@[simp] theorem State.updateWork_owed (s : State) : s.updateWork.owed = s.owed := rfl
@[simp] theorem State.updateWork_records (s : State) : s.updateWork.records = s.records := rfl
@[simp] theorem State.updateWork_directory (s : State) : s.updateWork.directory = s.directory := rfl
@[simp] theorem State.updateWork_intake (s : State) : s.updateWork.intake = s.intake := rfl
@[simp] theorem State.updateWork_fields (s : State) : s.updateWork.fields = s.fields := rfl
@[simp] theorem State.updateWork_colour (s : State) : s.updateWork.colour = s.colour := rfl
@[simp] theorem State.updateWork_bands (s : State) : s.updateWork.bands = s.bands := rfl
@[simp] theorem State.updateWork_raster (s : State) : s.updateWork.raster = s.raster := rfl
@[simp] theorem State.updateWork_tape (s : State) : s.updateWork.tape = s.tape := rfl
@[simp] theorem State.updateWork_painter (s : State) :
    s.updateWork.painter = { s.painter with work := s.painter.work.update s.bands s.painter.dirty } := rfl

/-! ### setCells -/

@[simp] theorem State.setCells_pending (c : CellStore) (s : State) : (s.setCells c).pending = s.pending := rfl
@[simp] theorem State.setCells_link (c : CellStore) (s : State) : (s.setCells c).link = s.link := rfl
@[simp] theorem State.setCells_carrying (c : CellStore) (s : State) : (s.setCells c).carrying = s.carrying := rfl
@[simp] theorem State.setCells_classWaits (c : CellStore) (s : State) :
    (s.setCells c).classWaits = s.classWaits := rfl
@[simp] theorem State.setCells_owed (c : CellStore) (s : State) : (s.setCells c).owed = s.owed := rfl
@[simp] theorem State.setCells_records (c : CellStore) (s : State) : (s.setCells c).records = s.records := rfl
@[simp] theorem State.setCells_directory (c : CellStore) (s : State) : (s.setCells c).directory = s.directory := rfl
@[simp] theorem State.setCells_intake (c : CellStore) (s : State) : (s.setCells c).intake = s.intake := rfl
@[simp] theorem State.setCells_fields (c : CellStore) (s : State) : (s.setCells c).fields = s.fields := rfl
@[simp] theorem State.setCells_colour (c : CellStore) (s : State) : (s.setCells c).colour = s.colour := rfl
@[simp] theorem State.setCells_painter (c : CellStore) (s : State) :
    (s.setCells c).painter = { s.painter with cells := c } := rfl
@[simp] theorem State.setCells_bands (c : CellStore) (s : State) : (s.setCells c).bands = s.bands := rfl
@[simp] theorem State.setCells_raster (c : CellStore) (s : State) : (s.setCells c).raster = s.raster := rfl
@[simp] theorem State.setCells_tape (c : CellStore) (s : State) : (s.setCells c).tape = s.tape := rfl

/-! ### modifyBand -/

@[simp] theorem State.modifyBand_pending (k : BandIx) (f : Band → Band) (s : State) :
    (s.modifyBand k f).pending = s.pending := rfl
@[simp] theorem State.modifyBand_link (k : BandIx) (f : Band → Band) (s : State) : (s.modifyBand k f).link = s.link := rfl
@[simp] theorem State.modifyBand_carrying (k : BandIx) (f : Band → Band) (s : State) :
    (s.modifyBand k f).carrying = s.carrying := rfl
@[simp] theorem State.modifyBand_classWaits (k : BandIx) (f : Band → Band) (s : State) :
    (s.modifyBand k f).classWaits = s.classWaits := rfl
@[simp] theorem State.modifyBand_owed (k : BandIx) (f : Band → Band) (s : State) :
    (s.modifyBand k f).owed = s.owed := rfl
@[simp] theorem State.modifyBand_records (k : BandIx) (f : Band → Band) (s : State) :
    (s.modifyBand k f).records = s.records := rfl
@[simp] theorem State.modifyBand_directory (k : BandIx) (f : Band → Band) (s : State) :
    (s.modifyBand k f).directory = s.directory := rfl
@[simp] theorem State.modifyBand_intake (k : BandIx) (f : Band → Band) (s : State) :
    (s.modifyBand k f).intake = s.intake := rfl
@[simp] theorem State.modifyBand_fields (k : BandIx) (f : Band → Band) (s : State) :
    (s.modifyBand k f).fields = s.fields := rfl
@[simp] theorem State.modifyBand_colour (k : BandIx) (f : Band → Band) (s : State) :
    (s.modifyBand k f).colour = s.colour := rfl
@[simp] theorem State.modifyBand_painter (k : BandIx) (f : Band → Band) (s : State) :
    (s.modifyBand k f).painter = s.painter := rfl
@[simp] theorem State.modifyBand_bands (k : BandIx) (f : Band → Band) (s : State) :
    (s.modifyBand k f).bands = s.bands.modify k f := rfl
@[simp] theorem State.modifyBand_raster (k : BandIx) (f : Band → Band) (s : State) :
    (s.modifyBand k f).raster = s.raster := rfl
@[simp] theorem State.modifyBand_tape (k : BandIx) (f : Band → Band) (s : State) : (s.modifyBand k f).tape = s.tape := rfl

/-! ### queued -/

@[simp] theorem State.queued_pending (new : List EntryIx) (s : State) : (s.queued new).pending = s.pending := rfl
@[simp] theorem State.queued_link (new : List EntryIx) (s : State) : (s.queued new).link = s.link := rfl
@[simp] theorem State.queued_carrying (new : List EntryIx) (s : State) : (s.queued new).carrying = s.carrying := rfl
@[simp] theorem State.queued_classWaits (new : List EntryIx) (s : State) :
    (s.queued new).classWaits = s.classWaits := rfl
@[simp] theorem State.queued_owed (new : List EntryIx) (s : State) : (s.queued new).owed = s.owed := rfl
@[simp] theorem State.queued_records (new : List EntryIx) (s : State) : (s.queued new).records = s.records := rfl
@[simp] theorem State.queued_directory (new : List EntryIx) (s : State) : (s.queued new).directory = s.directory := rfl
@[simp] theorem State.queued_intake (new : List EntryIx) (s : State) : (s.queued new).intake = s.intake := rfl
@[simp] theorem State.queued_fields (new : List EntryIx) (s : State) :
    (s.queued new).fields = Table.ofFn (fun i => { s.fields.get i with dirty := (s.fields.get i).dirty || decide (i ∈ new) }) := rfl
@[simp] theorem State.queued_colour (new : List EntryIx) (s : State) : (s.queued new).colour = s.colour := rfl
@[simp] theorem State.queued_painter (new : List EntryIx) (s : State) :
    (s.queued new).painter = { s.painter with dirty := s.painter.dirty ++ new } := rfl
@[simp] theorem State.queued_bands (new : List EntryIx) (s : State) : (s.queued new).bands = s.bands := rfl
@[simp] theorem State.queued_raster (new : List EntryIx) (s : State) : (s.queued new).raster = s.raster := rfl
@[simp] theorem State.queued_tape (new : List EntryIx) (s : State) : (s.queued new).tape = s.tape := rfl

/-! ### The answers are replies -/

theorem State.ack_eq (kind : Byte) (value : Nat) (s : State) : s.ack kind value = s.reply (.ack kind value) := rfl
theorem State.reject_eq (kind : Byte) (reason : Reason) (s : State) : s.reject kind reason = s.reply (.reject kind reason) := rfl

/-- Taking the head frame and replying is answering. -/
theorem State.reply_takeHead (r : Record) (s : State) : s.takeHead.reply r = s.answered r := rfl

end Sys2Proof.Machine
end

