-- ==== Sys2Proof/Laws/Ops.lean ====
section
/-! SUPPORT. What each shared operation does, said once: a request's step where its frame is offered, and the closed forms of
marking, sweeping, refreshing, freeing and reloading. -/

namespace Sys2Proof.Machine

open Sys2Proof

/-! ### The step of a request (R173) -/

theorem State.settled_of_none {s : State} (h : s.owed = none) : s.settled = s := by
  rw [State.settled, h]

theorem State.placed_of_idle {s : State} (h : s.carrying = .idle) : s.placed = s := by
  rw [State.placed, h]

theorem State.ready_of_offers {s : State} {kind : Byte} {p : List Byte} (h : s.Offers kind p) : s.ready = s := by
  rw [State.ready, State.settled_of_none h.2.2.2.2, State.placed_of_idle h.2.1]

theorem State.headFrame_of_offers {s : State} {kind : Byte} {p : List Byte} (h : s.Offers kind p) :
    s.headFrame = some ⟨kind, p⟩ := by
  obtain ⟨h1, h2, h3, h4, -⟩ := h
  simp [State.headFrame, State.canTake, h1, h2, h3, h4, Config.outboundCapacity]

/-- A request whose frame is offered is checked, and refused or carried out. -/
theorem request_of_offers {α : Type} {kind : Byte} {parse : List Byte → Except Reason α} {work : α → State → State} {s : State}
    {p : List Byte} (h : s.Offers kind p) :
    request kind parse work s =
      match parse p with
      | .error reason => .next (s.answered (.reject kind reason))
      | .ok a => .next (work a s.takeHead) := by
  have hk : s.serve kind parse work =
      match parse p with
      | .error reason => s.answered (.reject kind reason)
      | .ok a => work a s.takeHead := by
    simp only [State.serve, State.headFrame_of_offers h]
    rfl
  rw [request, State.ready_of_offers h, hk]
  cases parse p <;> rfl

/-- A request that passes its checks is carried out. -/
theorem request_ok {α : Type} {kind : Byte} {parse : List Byte → Except Reason α} {work : α → State → State} {s : State}
    {p : List Byte} {a : α} (h : s.Offers kind p) (hp : parse p = .ok a) :
    request kind parse work s = .next (work a s.takeHead) := by
  rw [request_of_offers h, hp]

/-- A request that fails a check of its fields is refused, and nothing else changes. -/
theorem request_error {α : Type} {kind : Byte} {parse : List Byte → Except Reason α} {work : α → State → State} {s : State}
    {p : List Byte} {r : Reason} (h : s.Offers kind p) (hp : parse p = .error r) :
    request kind parse work s = .next (s.answered (.reject kind r)) := by
  rw [request_of_offers h, hp]

/-- A request always answers a next state. -/
theorem request_next {α : Type} (kind : Byte) (parse : List Byte → Except Reason α) (work : α → State → State) (s : State) :
    ∃ t, request kind parse work s = .next t := ⟨_, rfl⟩

/-! ### Marking (R98, R122) -/

@[simp] theorem State.queued_nil (s : State) : s.queued [] = s := by
  have hf : Table.ofFn (fun i => { s.fields.get i with dirty := (s.fields.get i).dirty || decide (i ∈ ([] : List EntryIx)) })
      = s.fields := by
    apply Table.ext_get; intro i; simp
  simp only [State.queued, hf, List.append_nil]

theorem State.queued_append (a b : List EntryIx) (s : State) : s.queued (a ++ b) = (s.queued a).queued b := by
  have hf : Table.ofFn (fun i => { s.fields.get i with dirty := (s.fields.get i).dirty || decide (i ∈ a ++ b) })
      = Table.ofFn (fun i => { (s.queued a).fields.get i with
          dirty := ((s.queued a).fields.get i).dirty || decide (i ∈ b) }) := by
    apply Table.ext_get; intro i; simp [Bool.or_assoc]
  rw [State.queued, hf]
  simp [State.queued]

theorem State.get_queued (new : List EntryIx) (s : State) (i : EntryIx) :
    (s.queued new).fields.get i = { s.fields.get i with dirty := (s.fields.get i).dirty || decide (i ∈ new) } := by
  simp

/-- Whether a band shows an entry does not depend on its dirty mark. -/
@[simp] theorem appearsIn_dirty (f : Field) (d : Bool) (b : Band) : appearsIn { f with dirty := d } b = appearsIn f b := rfl

@[simp] theorem appears_dirty (bands : Table 4 Band) (f : Field) (d : Bool) :
    appears bands { f with dirty := d } = appears bands f := rfl

/-- An update of the fields and the Dirty List that sets the dirty marks of the entries it adds is a queueing. -/
theorem State.eq_queued {s : State} {new : List EntryIx} {fields : Table 256 Field}
    (h : ∀ j, fields.get j = { s.fields.get j with dirty := (s.fields.get j).dirty || decide (j ∈ new) }) :
    { s with fields := fields, painter := { s.painter with dirty := s.painter.dirty ++ new } } = s.queued new := by
  obtain rfl : fields =
      Table.ofFn (fun j => { s.fields.get j with dirty := (s.fields.get j).dirty || decide (j ∈ new) }) := by
    apply Table.ext_get; intro j; rw [h, Table.get_ofFn]
  rfl

/-- A mark request queues its entry, or changes nothing. -/
theorem State.markEntry_eq (s : State) (i : EntryIx) : s.markEntry i = s.queued (if s.markable i then [i] else []) := by
  unfold State.markEntry
  by_cases hm : s.markable i = true
  · rw [if_pos hm, if_pos hm]
    apply State.eq_queued
    intro j
    rw [Table.get_set]
    by_cases hj : j = i
    · subst hj; simp
    · simp [hj]
  · rw [if_neg hm, if_neg hm, State.queued_nil]

theorem State.markable_queued_ne {s : State} {new : List EntryIx} {i : EntryIx} (h : i ∉ new) :
    (s.queued new).markable i = s.markable i := by
  simp [State.markable, h]

/-- Mark requests for distinct entries queue those of them that would be queued, in their order. -/
theorem State.foldl_markEntry (l : List EntryIx) (s : State) (h : l.Nodup) :
    l.foldl State.markEntry s = s.queued (l.filter s.markable) := by
  induction l generalizing s with
  | nil => simp
  | cons i l ih =>
    obtain ⟨hi, hl⟩ := List.nodup_cons.mp h
    rw [List.foldl_cons, ih _ hl, State.markEntry_eq]
    have hrest : l.filter (s.queued (if s.markable i then [i] else [])).markable = l.filter s.markable := by
      apply List.filter_congr
      intro j hj
      apply State.markable_queued_ne
      split
      · simp only [List.mem_singleton]; rintro rfl; exact hi hj
      · simp
    rw [hrest, ← State.queued_append, List.filter_cons]
    split <;> simp

theorem liveEntries_nodup (fields : Table 256 Field) (p : Field → Bool) : (liveEntries fields p).Nodup :=
  Table.indices_nodup _ _

/-- A sweep by a property queues the entries it newly marks (R99). -/
theorem State.markWhere_eq (p : Field → Bool) (s : State) : s.markWhere p = s.queued (s.newlyMarked p) := by
  rw [State.markWhere, State.foldl_markEntry _ _ (liveEntries_nodup _ _)]
  congr 1
  simp only [liveEntries, State.newlyMarked, Table.indices_eq_filter, List.filter_filter]
  apply List.filter_congr
  intro i _
  simp only [State.markable]
  cases decide ((s.fields.get i).state = .live) <;> cases p (s.fields.get i) <;> cases (s.fields.get i).dirty <;> simp

theorem State.mem_newlyMarked {s : State} {p : Field → Bool} {i : EntryIx} :
    i ∈ s.newlyMarked p ↔ (s.fields.get i).state = .live ∧ p (s.fields.get i) = true ∧ (s.fields.get i).dirty = false
      ∧ appears s.bands (s.fields.get i) = true := by
  simp [State.newlyMarked, and_assoc]

/-- What one lookup would newly mark is unchanged by the marks of another item. -/
theorem State.newlyMarked_queued {s : State} {slot : Slot} {a b : Item} (h : a ≠ b) :
    (s.queued (s.newlyMarked (showsItem slot a))).newlyMarked (showsItem slot b) = s.newlyMarked (showsItem slot b) := by
  simp only [State.newlyMarked, Table.indices_eq_filter, State.queued_fields, State.queued_bands, Table.get_ofFn]
  apply List.filter_congr
  intro i _
  rw [Bool.eq_iff_iff]
  simp only [Bool.and_eq_true, decide_eq_true_eq, showsItem, appears_dirty, Bool.not_eq_true', Bool.or_eq_false_iff,
    decide_eq_false_iff_not, List.mem_filter]
  constructor
  · rintro ⟨⟨⟨h1, h2⟩, h3, -⟩, h4⟩; exact ⟨⟨⟨h1, h2⟩, h3⟩, h4⟩
  · rintro ⟨⟨⟨h1, h2⟩, h3⟩, h4⟩
    exact ⟨⟨⟨h1, h2⟩, h3, fun hc => h (hc.2.1.1.2.2.symm.trans h2.2)⟩, h4⟩

theorem State.newlyShowing_queued {s : State} {slot : Slot} {a : Item} {items : List Item} (h : a ∉ items) :
    (s.queued (s.newlyMarked (showsItem slot a))).newlyShowing slot items = s.newlyShowing slot items := by
  induction items with
  | nil => rfl
  | cons b items ih =>
    simp only [List.mem_cons, not_or] at h
    simp only [State.newlyShowing, List.flatMap_cons] at ih ⊢
    rw [State.newlyMarked_queued h.1, ih h.2]

/-- The mark requests of a record's change queue the entries they newly mark, item by item (R98). -/
theorem State.markItems_eq (slot : Slot) (items : List Item) (s : State) (h : items.Nodup) :
    s.markItems slot items = s.queued (s.newlyShowing slot items) := by
  induction items generalizing s with
  | nil => simp [State.markItems, State.newlyShowing]
  | cons a items ih =>
    obtain ⟨ha, hi⟩ := List.nodup_cons.mp h
    have : s.markItems slot (a :: items) = (s.markWhere (showsItem slot a)).markItems slot items := rfl
    rw [this, ih _ hi, State.markWhere_eq, State.newlyShowing_queued ha, ← State.queued_append]
    rfl

theorem slotItems_nodup : slotItems.Nodup := by decide

/-- A tick's marks name each item once. -/
theorem tickMarks_nodup (it : TickItems) (q : Quote) : (tickMarks it q).Nodup := by
  have : (tickMarks it q).Sublist slotItems := by
    unfold tickMarks
    refine (List.Sublist.append (List.Sublist.append (List.Sublist.append (List.Sublist.append (List.Sublist.append
      (List.Sublist.append (l₂ := [Item.last]) (r₂ := [.net, .pct]) ?_ ?_) (r₂ := [.bid]) ?_) (r₂ := [.ask]) ?_)
      (r₂ := [.high]) ?_) (r₂ := [.low]) ?_) (r₂ := [.vol]) ?_).trans (List.sublist_cons_self Item.sym _)
    all_goals (repeat' split) <;> simp
  exact this.nodup slotItems_nodup

/-! ### The Feed Watch (R53, R57) -/

theorem State.feedChanged_eq (s : State) : s.feedChanged = s.feedTold := by
  simp only [State.feedChanged, State.markWhere_eq]
  rfl

/-- A reload does what the table of R53 says for the state it finds. -/
theorem State.reloadFeed_eq (s : State) : s.reloadFeed = s.reloaded := by
  unfold State.reloadFeed State.reloaded
  cases s.intake.watch with
  | off => rfl
  | fresh p r => rfl
  | stale p => exact State.feedChanged_eq _

/-! ### Marks still to come (R60, R109, R117) -/

/-- A taking may fall next, and take an entry, exactly in the second step or where it can begin with the list not empty. -/
theorem State.mayTake_iff {s : State} :
    s.mayTake = true ↔ (∃ budget counted, s.painter.work = .taking budget counted)
      ∨ ∃ looks passed, s.painter.work = .clearing looks passed ∧ clearsDone looks s.bands = true ∧ s.painter.dirty ≠ [] := by
  unfold State.mayTake
  cases s.painter.work <;> simp

/-- Whether a taking may fall next depends on the Painter's work, the bands and whether the Dirty List is empty. -/
theorem State.mayTake_congr {s t : State} (hw : t.painter.work = s.painter.work) (hb : t.bands = s.bands)
    (hd : t.painter.dirty = [] ↔ s.painter.dirty = []) : t.mayTake = s.mayTake := by
  unfold State.mayTake
  rw [hw, hb, Bool.eq_iff_iff]
  cases s.painter.work <;> simp [hd]

theorem State.carryOut_lookups {slot : Slot} {items : List Item} (s : State) (h : items.Nodup) :
    s.carryOut (.lookups slot items) = s.queued (s.newlyShowing slot items) := State.markItems_eq _ _ _ h

theorem State.carryOut_sweep (set : SetIx) (attr : AttrIx) (s : State) :
    s.carryOut (.sweep set attr) = (s.queued (s.newlyMarked (inPalette set))).reply (.ack 0x29 attr.val) := by
  rw [State.carryOut, State.markWhere_eq]
  rfl

/-- The lookups of a change for a slot's items. -/
theorem State.handOver_lookups {slot : Slot} {items : List Item} (s : State) (h : items.Nodup) :
    s.handOver (.lookups slot items) = s.toldOf slot items := by
  rw [State.handOver, State.carryOut_lookups _ h, State.toldOf]

/-- Lookups queue entries and do nothing else. -/
theorem State.markItems_queued (slot : Slot) (items : List Item) (s : State) : ∃ new, s.markItems slot items = s.queued new := by
  induction items generalizing s with
  | nil => exact ⟨[], (State.queued_nil s).symm⟩
  | cons a items ih =>
    have : s.markItems slot (a :: items) = (s.markWhere (showsItem slot a)).markItems slot items := rfl
    obtain ⟨new, h⟩ := ih (s.markWhere (showsItem slot a))
    exact ⟨s.newlyMarked (showsItem slot a) ++ new, by rw [this, h, State.markWhere_eq, State.queued_append]⟩

/-- To carry out what is owed is to queue entries, to answer at most, and to owe nothing. -/
theorem State.settled_queued (s : State) : ∃ (new : List EntryIx) (answer : Option Record), s.settled =
    (answer.elim id State.reply) ({ s with owed := none }.queued new) := by
  unfold State.settled
  split
  · rename_i m _
    cases m with
    | lookups slot items =>
      obtain ⟨new, h⟩ := State.markItems_queued slot items { s with owed := none }
      exact ⟨new, none, h⟩
    | sweep set attr => exact ⟨_, some _, State.carryOut_sweep set attr _⟩
  · rename_i h
    refine ⟨[], none, ?_⟩
    rw [Option.elim_none, State.queued_nil, ← h]
    rfl

@[simp] theorem State.settled_pending (s : State) : s.settled.pending = s.pending := by
  obtain ⟨_, answer, h⟩ := s.settled_queued
  rw [h]
  cases answer <;> rfl

@[simp] theorem State.settled_owed (s : State) : s.settled.owed = none := by
  obtain ⟨_, answer, h⟩ := s.settled_queued
  rw [h]
  cases answer <;> rfl

@[simp] theorem State.settled_records (s : State) : s.settled.records = s.records := by
  obtain ⟨_, answer, h⟩ := s.settled_queued
  rw [h]
  cases answer <;> rfl

@[simp] theorem State.settled_directory (s : State) : s.settled.directory = s.directory := by
  obtain ⟨_, answer, h⟩ := s.settled_queued
  rw [h]
  cases answer <;> rfl

@[simp] theorem State.settled_intake (s : State) : s.settled.intake = s.intake := by
  obtain ⟨_, answer, h⟩ := s.settled_queued
  rw [h]
  cases answer <;> rfl

@[simp] theorem State.settled_colour (s : State) : s.settled.colour = s.colour := by
  obtain ⟨_, answer, h⟩ := s.settled_queued
  rw [h]
  cases answer <;> rfl

@[simp] theorem State.settled_bands (s : State) : s.settled.bands = s.bands := by
  obtain ⟨_, answer, h⟩ := s.settled_queued
  rw [h]
  cases answer <;> rfl

@[simp] theorem State.settled_raster (s : State) : s.settled.raster = s.raster := by
  obtain ⟨_, answer, h⟩ := s.settled_queued
  rw [h]
  cases answer <;> rfl

@[simp] theorem State.settled_tape (s : State) : s.settled.tape = s.tape := by
  obtain ⟨_, answer, h⟩ := s.settled_queued
  rw [h]
  cases answer <;> rfl

/-- The marks of a change are carried out once. -/
@[simp] theorem State.settled_settled (s : State) : s.settled.settled = s.settled := State.settled_of_none s.settled_owed

/-! ### Answers still to be placed (R173, R177) -/

theorem State.placed_of_answering {s : State} {r : Record} (h : s.carrying = .answering r) :
    s.placed = { s with carrying := .idle, link := { s.link with outbound := s.link.outbound ++ [r] } } := by
  rw [State.placed, h]
  rfl

/-- The answer is placed once. -/
@[simp] theorem State.placed_placed (s : State) : s.placed.placed = s.placed := by
  unfold State.placed
  cases h : s.carrying <;> simp [State.place, h]

@[simp] theorem State.placed_owed (s : State) : s.placed.owed = s.owed := by
  unfold State.placed
  split <;> rfl

/-- A request with no class waiting is answered at once. -/
theorem State.reply_of_not_classWaits {s : State} (r : Record) (h : s.classWaits = false) : s.reply r = s.place r := by
  rw [State.reply, h]
  rfl

/-- A request with a class waiting has its answer still to be placed. -/
theorem State.reply_of_classWaits {s : State} (r : Record) (h : s.classWaits = true) :
    s.reply r = { s with carrying := .answering r } := by
  simp only [State.reply, h, if_true, List.append_nil]

/-- A request first finds the marks of the change before it carried out. -/
theorem request_settled {α : Type} (kind : Byte) (parse : List Byte → Except Reason α) (work : α → State → State) (s : State) :
    request kind parse work s = request kind parse work s.settled := by
  rw [request, request, State.ready, State.ready, State.settled_settled]

/-! ### The application of a tick (R14, R43, R60) -/

theorem State.applyTick_eq (slot : Slot) (it : TickItems) (s : State) :
    s.applyTick slot it = (s.settled.setRecord slot (applyItems s.colour.flashHeat it (s.records.get slot))).toldOf slot
      (tickMarks it (s.records.get slot)) := by
  rw [State.applyTick, State.handOver_lookups _ (tickMarks_nodup _ _)]

theorem State.applyAndPrint_eq (slot : Slot) (tape : Bool) (it : TickItems) (s : State) :
    s.applyAndPrint slot tape it = s.applied slot tape it := by
  rw [State.applyAndPrint, State.applyTick_eq]
  rfl

/-! ### Unpainted marks (R93) -/

/-- Two updates of the fields and bands that agree at every index are equal. -/
theorem State.ext_fields_bands {s : State} {f g : Table 256 Field} {b c : Table 4 Band} (hf : ∀ i, f.get i = g.get i)
    (hb : ∀ k, b.get k = c.get k) : { s with fields := f, bands := b } = { s with fields := g, bands := c } := by
  rw [Table.ext_get hf, Table.ext_get hb]

/-- Clearing one mark of an entry, and counting it down where it was set. -/
theorem State.clearUnpainted_eq (i : EntryIx) (s : State) (k : BandIx) :
    s.clearUnpainted i k = { s with
      fields := s.fields.modify i (fun f => { f with unpainted := f.unpainted.set k false })
      bands := s.bands.modify k (fun b =>
        if (s.fields.get i).unpainted.get k = true then { b with count := b.count - 1 } else b) } := by
  unfold State.clearUnpainted
  by_cases h : (s.fields.get i).unpainted.get k = true
  · simp only [if_pos h]
  · rw [if_neg h]
    have hs : s = { s with fields := s.fields, bands := s.bands } := rfl
    conv_lhs => rw [hs]
    apply State.ext_fields_bands
    · intro j
      rw [Table.get_modify]
      split
      · subst j
        have : (s.fields.get i).unpainted.set k false = (s.fields.get i).unpainted := by
          simp only [Bool.not_eq_true] at h
          conv_lhs => rw [← h]
          exact Table.set_get _ _
        simp [this]
      · rfl
    · intro j; rw [Table.get_modify]; split
      · subst j; simp
      · rfl

/-- Clearing marks of an entry for distinct bands. -/
theorem State.foldl_clearUnpainted (i : EntryIx) (l : List BandIx) (s : State) (h : l.Nodup) :
    l.foldl (State.clearUnpainted i) s = { s with
      fields := s.fields.modify i (fun f => { f with
        unpainted := Table.ofFn (fun k => f.unpainted.get k && !decide (k ∈ l)) })
      bands := Table.ofFn (fun k =>
        if k ∈ l ∧ (s.fields.get i).unpainted.get k = true then { s.bands.get k with count := (s.bands.get k).count - 1 }
        else s.bands.get k) } := by
  induction l generalizing s with
  | nil =>
    have hs : s = { s with fields := s.fields, bands := s.bands } := rfl
    conv_lhs => rw [List.foldl_nil, hs]
    apply State.ext_fields_bands
    · intro j; rw [Table.get_modify]; split
      · subst j
        have : Table.ofFn (fun k => (s.fields.get i).unpainted.get k && !decide (k ∈ ([] : List BandIx)))
            = (s.fields.get i).unpainted := by
          apply Table.ext_get; intro k; simp
        simp only [this]
      · rfl
    · intro k; simp
  | cons k l ih =>
    obtain ⟨hk, hl⟩ := List.nodup_cons.mp h
    rw [List.foldl_cons, ih _ hl, State.clearUnpainted_eq]
    apply State.ext_fields_bands
    · intro j
      simp only [Table.get_modify]
      split
      · simp only [↓reduceIte]
        have : Table.ofFn (fun k_1 => ((s.fields.get i).unpainted.set k false).get k_1 && !decide (k_1 ∈ l))
            = Table.ofFn (fun k_1 => (s.fields.get i).unpainted.get k_1 && !decide (k_1 ∈ k :: l)) := by
          apply Table.ext_get; intro m
          simp only [Table.get_ofFn, Table.get_set, List.mem_cons]
          by_cases hm : m = k <;> simp [hm]
        rw [this]
      · rfl
    · intro m
      simp only [Table.get_ofFn, Table.get_modify, List.mem_cons]
      by_cases hm : m = k
      · subst hm; simp [hk]
      · simp [hm, Table.get_set_ne _ _ hm]

/-- Clearing the marks an entry holds, band by band, clears them all and counts each down. -/
theorem State.clearMarksOf_eq (i : EntryIx) (s : State) : s.clearMarksOf i = s.marksDropped i := by
  have hall : ∀ k : BandIx, k ∈ allBands := by decide
  rw [State.clearMarksOf, State.foldl_clearUnpainted _ _ _ (by decide)]
  apply State.ext_fields_bands
  · intro j
    have : ∀ f : Field, Table.ofFn (fun k => f.unpainted.get k && !decide (k ∈ allBands)) = Table.replicate 4 false := by
      intro f; apply Table.ext_get; intro k; simp [hall k]
    simp only [this]
  · intro k; simp [hall k]

/-! ### Sweeps and refreshes (R92, R145) -/

/-- Two updates of the fields, the Dirty List and the bands that agree everywhere are equal. -/
theorem State.ext_swept {s : State} {f g : Table 256 Field} {d e : List EntryIx} {b c : Table 4 Band}
    (hf : ∀ i, f.get i = g.get i) (hd : d = e) (hb : ∀ k, b.get k = c.get k) :
    { s with fields := f, painter := { s.painter with dirty := d }, bands := b } =
      { s with fields := g, painter := { s.painter with dirty := e }, bands := c } := by
  rw [Table.ext_get hf, Table.ext_get hb, hd]

theorem appears_of_appearsIn {bands : Table 4 Band} {f : Field} {k : BandIx} (h : appearsIn f (bands.get k) = true) :
    appears bands f = true := Table.any_eq_true.mpr ⟨k, h⟩

/-- An entry's appearance depends on its state and placement and on what the band shows. -/
theorem appearsIn_congr {f g : Field} {a b : Band} (hs : f.state = g.state) (hp : f.placement = g.placement)
    (hb : a.shows = b.shows) : appearsIn f a = appearsIn g b := by
  simp only [appearsIn, hs, hp, hb]

theorem appears_congr {f g : Field} {a b : Table 4 Band} (hs : f.state = g.state) (hp : f.placement = g.placement)
    (hb : ∀ k, (a.get k).shows = (b.get k).shows) : appears a f = appears b g := by
  rw [Bool.eq_iff_iff]
  simp only [appears, Table.any_eq_true, appearsIn_congr hs hp (hb _)]

/-- The sweep of one LIVE entry that appears in the band. -/
theorem State.sweepEntry_eq {k : BandIx} {s : State} {i : EntryIx} (h : liveIn (s.bands.get k) (s.fields.get i) = true) :
    s.sweepEntry k i = { s with
      fields := s.fields.modify i (fun f => { f with unpainted := f.unpainted.set k true, dirty := true })
      painter := { s.painter with dirty := s.painter.dirty ++ (if (s.fields.get i).dirty then [] else [i]) }
      bands := s.bands.modify k (fun b =>
        { b with count := b.count + (if (s.fields.get i).unpainted.get k then 0 else 1) }) } := by
  simp only [liveIn, Bool.and_eq_true, decide_eq_true_eq] at h
  -- the entry after its mark is set
  have hset : ∀ u : State, u = s.setUnpainted k i → u = { s with
      fields := s.fields.modify i (fun f => { f with unpainted := f.unpainted.set k true })
      bands := s.bands.modify k (fun b =>
        { b with count := b.count + (if (s.fields.get i).unpainted.get k then 0 else 1) }) } := by
    rintro u rfl
    unfold State.setUnpainted
    by_cases hm : (s.fields.get i).unpainted.get k = true
    · rw [if_pos hm]
      have hs : s = { s with fields := s.fields, bands := s.bands } := rfl
      conv_lhs => rw [hs]
      apply State.ext_fields_bands
      · intro j; rw [Table.get_modify]; split
        · subst j
          have : (s.fields.get i).unpainted.set k true = (s.fields.get i).unpainted := by
            conv_lhs => rw [← hm]
            exact Table.set_get _ _
          simp [this]
        · rfl
      · intro j; rw [Table.get_modify]; split
        · subst j; simp
        · rfl
    · simp only [if_neg hm]
  have hu := hset _ rfl
  have hm : (s.setUnpainted k i).markable i = !(s.fields.get i).dirty := by
    have ha : appears s.bands (s.fields.get i) = true := appears_of_appearsIn h.2
    have : appears (s.setUnpainted k i).bands ((s.setUnpainted k i).fields.get i) = true := by
      rw [hu, ← ha]
      apply appears_congr <;> simp
      intro j; rw [Table.get_modify]; split <;> simp [*]
    rw [State.markable, this]
    simp [hu, h.1]
  rw [State.sweepEntry, State.markEntry_eq, hm, hu]
  apply State.ext_swept
  · intro j
    simp only [Table.get_ofFn, Table.get_modify]
    by_cases hj : j = i
    · subst hj; cases (s.fields.get j).dirty <;> simp
    · simp only [if_neg hj]
      have : (if (!(s.fields.get i).dirty) = true then [i] else []) = [i] ∨
          (if (!(s.fields.get i).dirty) = true then [i] else ([] : List EntryIx)) = [] := by
        split <;> simp
      rcases this with h1 | h1 <;> simp [hj]
  · cases (s.fields.get i).dirty <;> simp
  · intro j; rfl

/-- The sweep of distinct LIVE entries that appear in the band. -/
theorem State.foldl_sweepEntry (k : BandIx) (l : List EntryIx) (s : State) (h : l.Nodup)
    (hl : ∀ i ∈ l, liveIn (s.bands.get k) (s.fields.get i) = true) :
    l.foldl (State.sweepEntry k) s = { s with
      fields := Table.ofFn (fun i => if i ∈ l
        then { s.fields.get i with unpainted := (s.fields.get i).unpainted.set k true, dirty := true } else s.fields.get i)
      painter := { s.painter with dirty := s.painter.dirty ++ l.filter (fun i => !(s.fields.get i).dirty) }
      bands := s.bands.modify k (fun b =>
        { b with count := b.count + (l.filter (fun i => !(s.fields.get i).unpainted.get k)).length }) } := by
  induction l generalizing s with
  | nil =>
    have hs : s = { s with fields := s.fields, painter := { s.painter with dirty := s.painter.dirty }, bands := s.bands } := rfl
    conv_lhs => rw [List.foldl_nil, hs]
    apply State.ext_swept
    · intro i; simp
    · simp
    · intro j; rw [Table.get_modify]; split
      · subst j; rfl
      · rfl
  | cons i l ih =>
    obtain ⟨hi, hn⟩ := List.nodup_cons.mp h
    have hne : ∀ j ∈ l, j ≠ i := fun j hj e => hi (e ▸ hj)
    rw [List.foldl_cons, State.sweepEntry_eq (hl i List.mem_cons_self), ih _ hn]
    · have hd : l.filter (fun j => !((s.fields.modify i (fun f =>
          { f with unpainted := f.unpainted.set k true, dirty := true })).get j).dirty)
          = l.filter (fun j => !(s.fields.get j).dirty) := by
        apply List.filter_congr; intro j hj; rw [Table.get_modify_ne _ _ (hne j hj)]
      have hu : l.filter (fun j => !((s.fields.modify i (fun f =>
          { f with unpainted := f.unpainted.set k true, dirty := true })).get j).unpainted.get k)
          = l.filter (fun j => !(s.fields.get j).unpainted.get k) := by
        apply List.filter_congr; intro j hj; rw [Table.get_modify_ne _ _ (hne j hj)]
      apply State.ext_swept
      · intro j
        simp only [Table.get_ofFn, Table.get_modify, List.mem_cons]
        by_cases hj : j = i
        · subst hj; simp [hi]
        · simp [hj]
      · simp only [hd, List.filter_cons]
        cases (s.fields.get i).dirty <;> simp
      · intro m
        simp only [hu, List.filter_cons]
        simp only [Table.get_modify]
        by_cases hm : m = k
        · subst hm
          cases (s.fields.get i).unpainted.get m <;> simp <;> omega
        · simp [hm]
    · intro j hj
      have := hl j (List.mem_cons_of_mem _ hj)
      simp only [liveIn, Bool.and_eq_true, decide_eq_true_eq] at this ⊢
      simp only [Table.get_modify_ne _ _ (hne j hj), Table.get_modify_self]
      exact ⟨this.1, this.2⟩

/-- The sweep of a band (R92). -/
theorem State.sweepBand_eq (k : BandIx) (s : State) : s.sweepBand k = s.swept k := by
  have hmem : ∀ i, i ∈ liveEntries s.fields (fun f => appearsIn f (s.bands.get k))
      ↔ liveIn (s.bands.get k) (s.fields.get i) = true := by
    intro i; simp [liveEntries, liveIn]
  rw [State.sweepBand, State.foldl_sweepEntry _ _ _ (liveEntries_nodup _ _) (fun i hi => (hmem i).mp hi)]
  apply State.ext_swept
  · intro i; simp only [Table.get_ofFn, hmem, Table.get_map]
  · congr 1
    simp only [liveEntries, Table.indices_eq_filter, List.filter_filter]
    apply List.filter_congr; intro i _; rw [Bool.and_comm]; rfl
  · intro j
    rw [Table.count_eq]
    simp only [liveEntries, Table.indices_eq_filter, List.filter_filter]
    have : List.filter (fun a => (!(s.fields.get a).unpainted.get k) && (decide ((s.fields.get a).state = FieldState.live)
          && appearsIn (s.fields.get a) (s.bands.get k))) (List.finRange 256)
        = List.filter (fun i => liveIn (s.bands.get k) (s.fields.get i) && !(s.fields.get i).unpainted.get k)
          (List.finRange 256) := by
      apply List.filter_congr; intro i _; rw [Bool.and_comm]; rfl
    rw [this]

/-- A band refresh (R145). -/
theorem State.refreshBand_eq (k : BandIx) (s : State) : s.refreshBand k = s.refreshed k := by
  rw [State.refreshBand, State.sweepBand_eq]; rfl

/-! ### Where the Painter's work stands (R127, R129, R132) -/

@[simp] theorem keepLooks_get (looks : Table 4 Look) (bands : Table 4 Band) (cause : Band → Bool) (k : BandIx) :
    (keepLooks looks bands cause).get k =
      if looks.get k = .owed ∧ cause (bands.get k) = false then .mayLook else looks.get k := by
  rw [keepLooks, Table.get_ofFn]

/-- A step of the work owes a band nothing exactly when no band that owes it gives it cause. -/
theorem allDone_iff {looks : Table 4 Look} {bands : Table 4 Band} {cause : Band → Bool} :
    allDone looks bands cause = true ↔ ∀ k, looks.get k = .owed → cause (bands.get k) = false := by
  simp only [allDone, allBands, List.all_cons, List.all_nil, Bool.and_true, Bool.and_eq_true, Bool.or_eq_true,
    decide_eq_true_eq, Bool.not_eq_true', ne_eq, ← imp_iff_not_or]
  constructor
  · rintro ⟨h0, h1, h2, h3⟩ k
    fin_cases k
    exacts [h0, h1, h2, h3]
  · exact fun h => ⟨h 0, h 1, h 2, h 3⟩

@[simp] theorem PaintWork.update_idle (bands : Table 4 Band) (dirty : List EntryIx) :
    PaintWork.update bands dirty .idle = .idle := rfl

/-- The second step goes on exactly while its budget is not counted and the list is not empty. -/
theorem PaintWork.update_eq_taking_iff {bands : Table 4 Band} {dirty : List EntryIx} {w : PaintWork} {budget counted : Nat} :
    w.update bands dirty = .taking budget counted ↔
      w = .taking budget counted ∧ counted < budget ∧ dirty ≠ [] := by
  cases w with
  | idle => simp
  | clearing looks passed => cases passed <;> simp [PaintWork.update]
  | taking b c =>
    simp only [PaintWork.update]
    split
    · rename_i h
      refine ⟨fun e => (nomatch e), ?_⟩
      rintro ⟨e, hlt, hd⟩
      cases e
      rcases h with h | h
      · omega
      · exact absurd h hd
    · rename_i h
      rw [not_or] at h
      refine ⟨?_, fun e => e.1⟩
      intro e
      cases e
      exact ⟨rfl, by omega, h.2⟩
  | releasing looks => simp [PaintWork.update]

/-- Outside frame-start work nothing follows. -/
theorem State.updateWork_of_idle {s : State} (h : s.painter.work = .idle) : s.updateWork = s := by
  have : s.painter = { s.painter with work := .idle } := by rw [← h]
  rw [State.updateWork, State.setWork, h, PaintWork.update_idle, ← this]

theorem State.updateWork_answered (r : Record) (s : State) : s.updateWork.answered r = (s.answered r).updateWork := rfl

theorem State.updateWork_takeHead (s : State) : s.takeHead.updateWork = s.updateWork.takeHead := rfl

/-! ### Freeing entries (R89, R91) -/

/-- An entry that becomes FREE leaves the Dirty List, and its marks are counted down. -/
theorem State.freeEntry_eq (s : State) (i : EntryIx) : s.freeEntry i = { s with
    fields := s.fields.set i Field.free
    painter := { s.painter with dirty := s.painter.dirty.filter (fun j => decide (j ≠ i)) }
    bands := Table.ofFn (fun k =>
      if (s.fields.get i).unpainted.get k then { s.bands.get k with count := (s.bands.get k).count - 1 }
      else s.bands.get k) } := by
  rw [State.freeEntry, State.clearMarksOf_eq]
  apply State.ext_swept
  · intro j; simp only [State.marksDropped, Table.get_set, Table.get_modify]; split <;> rfl
  · rfl
  · intro k; rfl

/-- Distinct entries that become FREE. -/
theorem State.foldl_freeEntry (l : List EntryIx) (s : State) (h : l.Nodup) :
    l.foldl State.freeEntry s = { s with
      fields := Table.ofFn (fun i => if i ∈ l then Field.free else s.fields.get i)
      painter := { s.painter with dirty := s.painter.dirty.filter (fun j => decide (j ∉ l)) }
      bands := Table.ofFn (fun k => { s.bands.get k with
        count := (s.bands.get k).count - (l.filter (fun i => (s.fields.get i).unpainted.get k)).length }) } := by
  induction l generalizing s with
  | nil =>
    have hs : s = { s with fields := s.fields, painter := { s.painter with dirty := s.painter.dirty }, bands := s.bands } := rfl
    conv_lhs => rw [List.foldl_nil, hs]
    apply State.ext_swept
    · intro i; simp
    · simp
    · intro j; simp
  | cons i l ih =>
    obtain ⟨hi, hn⟩ := List.nodup_cons.mp h
    have hne : ∀ j ∈ l, j ≠ i := fun j hj e => hi (e ▸ hj)
    rw [List.foldl_cons, State.freeEntry_eq, ih _ hn]
    have hu : ∀ k, l.filter (fun j => ((s.fields.set i Field.free).get j).unpainted.get k)
        = l.filter (fun j => (s.fields.get j).unpainted.get k) := by
      intro k; apply List.filter_congr; intro j hj; rw [Table.get_set_ne _ _ (hne j hj)]
    apply State.ext_swept
    · intro j
      simp only [Table.get_ofFn, Table.get_set, List.mem_cons]
      by_cases hj : j = i
      · simp [hj]
      · simp [hj]
    · rw [List.filter_filter]; apply List.filter_congr; intro j _
      simp only [List.mem_cons, not_or, decide_not, Bool.and_comm, Bool.decide_and]
    · intro k
      simp only [Table.get_ofFn, hu, List.filter_cons]
      cases (s.fields.get i).unpainted.get k
      · simp
      · simp [Nat.sub_sub, Nat.add_comm]

end Sys2Proof.Machine
end

