-- ==== Sys2Proof/Laws/Parse.lean ====
section
/-! SUPPORT. What the check of each request reads from the payload that its fields are written to: one lemma per request, so
that no proof about a request unfolds its bytes. -/

namespace Sys2Proof.Machine

open Sys2Proof

/-- CLEAR, HALT, RESUME and QUERY of a slot are read as that slot. -/
theorem parse_slotOnly (slot : Slot) : slotOnly (beBytes 2 slot.val) = .ok slot := by
  simp [slotOnly, ranged]

/-- A DEFINE of a slot, a format and a symbol of 1..8 characters is read as they are, the symbol sanitised (R8). -/
theorem parse_define (slot : Slot) (format : Format) (symbol : List Byte) (h1 : 1 ≤ symbol.length) (h : symbol.length ≤ 8) :
    parseDefine (beBytes 2 slot.val ++ beBytes 1 format.code ++ beBytes 1 symbol.length ++ symbol)
      = .ok ⟨slot, format, symbol.map sanitise⟩ := by
  have hd : (beBytes 2 slot.val ++ (beBytes 1 format.code ++ (beBytes 1 symbol.length ++ symbol))).drop 4 = symbol := by
    rw [← List.append_assoc, ← List.append_assoc]; exact List.drop_left' (by simp)
  simp only [List.append_assoc]
  simp [parseDefine, fieldAt_zero_beBytes (k := 1) (n := symbol.length) _ (by omega),
    fieldAt_zero_beBytes (k := 1) _ (Format.code_lt format), hd, h, h1]
  omega

/-- A SETREF is read as its slot and the reference it sets, or none (R11). -/
theorem parse_setref (slot : Slot) (b : Bool) (price : Nat) (h : price < 2^32) :
    parseSetref (beBytes 2 slot.val ++ beBytes 1 (flagBit b) ++ beBytes 4 price) =
      .ok (slot, if b then some (min price 999999999) else none) := by
  have := fieldAt_beBytes (k := 4) (n := price) (by omega)
  simp [parseSetref, this, saturatePrice, Config.maxPrice]
  cases b <;> rfl

/-- An INSTALL of an entry is read as that entry (R25). -/
theorem parse_install (e : DirEntry) :
    parseInstall (beBytes 1 e.venue.val ++ beBytes 1 (flagBit e.any) ++ beBytes 4 e.code.toNat ++ beBytes 2 e.slot.val) = .ok e := by
  simp [parseInstall]

/-- A REMOVE of an identity is read as that identity (R27). -/
theorem parse_remove (venue : Venue) (any : Bool) (code : Code) :
    parseRemove (beBytes 1 venue.val ++ beBytes 1 (flagBit any) ++ beBytes 4 code.toNat) = .ok (venue, any, code) := by
  simp [parseRemove]

/-- A DPROBE of a pair is read as that pair (R29). -/
theorem parse_dprobe (venue : Venue) (code : Code) :
    parseDprobe (beBytes 1 venue.val ++ beBytes 4 code.toNat) = .ok (venue, code) := by
  simp [parseDprobe]

/-- UNMAP and MPROBE of an index are read as that index (R89, R95). -/
theorem parse_index (i : EntryIx) : indexOnly (beBytes 1 i.val) = .ok i := by simp [indexOnly, ranged]

/-- A request of one clamped value is read as the value clamped (section 1.7). -/
theorem parse_one (lo hi v : Nat) (h : v < 256) : oneClamped lo hi (beBytes 1 v) = .ok (max lo (min v hi)) := by
  simp [oneClamped, clamp, fieldAt_beBytes (k := 1) (n := v) (by omega)]

/-- A SETPAL is read as its set, class and attribute (R116). -/
theorem parse_setpal (set : SetIx) (cls : Fin 14) (attr : AttrIx) :
    parseSetpal (beBytes 1 set.val ++ beBytes 1 cls.val ++ beBytes 1 attr.val) = .ok (set, cls, attr) := by
  simp [parseSetpal]

/-- A SETATTR is read as its index and attribute (R120). -/
theorem parse_setattr (i : AttrIx) (a : Attr) :
    parseSetattr (beBytes 1 i.val ++ beBytes 1 a.foreground.val ++ beBytes 1 a.background.val ++ beBytes 1 (flagBit a.blink) ++ beBytes 1 (flagBit a.underline)) = .ok (i, a) := by
  simp [parseSetattr]

/-- A HEATCFG is read as its settings, the flash heat clamped (R107). -/
theorem parse_heatcfg (flash : Nat) (enabled : Bool) (period : Fin 8) (limit : Fin 4) (h : flash < 256) :
    parseHeatcfg (beBytes 1 flash ++ beBytes 1 (flagBit enabled) ++ beBytes 1 period.val ++ beBytes 1 limit.val) =
      .ok ⟨max 1 (min flash 15), enabled, period, limit⟩ := by
  simp [parseHeatcfg, clamp, fieldAt_zero_beBytes (k := 1) (n := flash) _ (by omega)]

/-- An MFIND is read as its slot, item and board (R96). -/
theorem parse_mfind (slot : Slot) (item : Item) (board : BoardIx) (h : item ≠ .text) :
    parseMfind (beBytes 2 slot.val ++ beBytes 1 item.code ++ beBytes 1 board.val) = .ok (slot, item, board) := by
  simp [parseMfind, fieldAt_zero_beBytes (k := 1) _ (Item.code_lt item), h]

/-- A SETTEXT is read as its index and its text, sanitised (R97). -/
theorem parse_settext (i : EntryIx) (text : List Byte) (h : text.length ≤ 16) :
    parseSettext (beBytes 1 i.val ++ beBytes 1 text.length ++ text) = .ok (i, text.map sanitise) := by
  have hd : (beBytes 1 i.val ++ (beBytes 1 text.length ++ text)).drop 2 = text := by
    rw [← List.append_assoc]; exact List.drop_left' (by simp)
  simp only [List.append_assoc]
  simp [parseSettext, fieldAt_zero_beBytes (k := 1) (n := text.length) _ (by omega), hd, h]
  omega

/-- A TAPETEXT is read as its text, sanitised (R158). -/
theorem parse_tapetext (text : List Byte) (h1 : 1 ≤ text.length) (h : text.length ≤ 32) :
    parseTapetext (beBytes 1 text.length ++ text) = .ok (text.map sanitise) := by
  have hd : (beBytes 1 text.length ++ text).drop 1 = text := List.drop_left' (by simp)
  simp [parseTapetext, fieldAt_zero_beBytes (k := 1) (n := text.length) _ (by omega), hd, h, h1]

/-- A BAND whose rows lie on the screen is read as it is (R140). -/
theorem parse_band (k : BandIx) (top height : Nat) (size : Fin 4) (bg : AttrIx) (h1 : top ≤ 35) (h2 : height ≤ 36)
    (h3 : top + height ≤ 36) :
    parseBand (beBytes 1 k.val ++ beBytes 1 top ++ beBytes 1 height ++ beBytes 1 size.val ++ beBytes 1 bg.val) =
      .ok ⟨k, top, height, size, bg⟩ := by
  simp [parseBand, fieldAt_zero_beBytes (k := 1) (n := top) _ (by omega),
    fieldAt_zero_beBytes (k := 1) (n := height) _ (by omega), h1, h2, h3]

/-- A SHOW is read as its band and its target, or refused with RANGE (R142). -/
theorem parse_show (k : BandIx) (target : Nat) (h : target < 256) :
    parseShow (beBytes 1 k.val ++ beBytes 1 target) = ranged ((Shows.ofCode target).map (fun t => (k, t))) := by
  simp [parseShow, fieldAt_beBytes (k := 1) (n := target) (by omega)]
  cases Shows.ofCode target <;> rfl

/-- A MAP that asks for an entry is read as that entry (R86, R88). -/
theorem parse_map (f : Field) (slotField : Nat) (text : List Byte) (h : f.Asked slotField text) :
    parseMap (mapBytes f slotField text) = .ok f := by
  obtain ⟨hl, ⟨r1, ⟨w1, w2⟩, c1, s1, t1, t2, t3⟩, hs, hsf, ht, hd, hu⟩ := h
  have hdrop : (mapBytes f slotField text).drop 10 = text := by
    unfold mapBytes; exact List.drop_left' (by simp)
  have htl : text.length ≤ 16 := by rw [ht] at t1; simpa using t1
  unfold mapBytes at hdrop ⊢
  simp only [List.append_assoc] at hdrop ⊢
  simp only [parseMap, hdrop]
  have hm : ∀ m, (if f.item = .text then 16 else 0 : Nat) = m → text.length ≤ m := by
    rintro m rfl
    split
    · exact htl
    · have := t2 ‹_›; rw [ht] at this; simp at this; simp [this]
  simp [fieldAt_zero_beBytes (k := 1) (n := text.length) _ (by omega), fieldAt_zero_beBytes (k := 1) _ (Item.code_lt f.item),
    fieldAt_zero_beBytes (k := 1) _ (Placement.code_lt f.placement), fieldAt_zero_beBytes (k := 2) (n := slotField) _ (by omega),
    fieldAt_zero_beBytes (k := 1) (n := f.row) _ (by omega), fieldAt_zero_beBytes (k := 1) (n := f.column) _ (by omega),
    fieldAt_zero_beBytes (k := 1) (n := f.width) _ (by omega), hm _ rfl, r1, w1, w2, c1]
  rw [if_neg (by omega), if_pos]
  · have hslot : (if f.item = .text then none else inRange 512 slotField) = f.slot := by
      by_cases hx : f.item = .text
      · have : f.slot = none := by simpa [hx] using s1
        simp [hx, this]
      · obtain ⟨v, hv, rfl⟩ := Option.map_eq_some_iff.mp (hs hx)
        simp [hx, hv]
    rw [hslot, ← ht, ← hl, ← hu]
    conv_lhs => rw [← hd]
  · refine ⟨?_, by omega⟩
    by_cases hx : f.item = .text
    · exact Or.inl hx
    · obtain ⟨v, hv, rfl⟩ := Option.map_eq_some_iff.mp (hs hx)
      exact Or.inr v.isLt

/-- The mask's unassigned bits do not touch its assigned ones. -/
theorem testBit_spare {m s k : Nat} (hm : m < 32) (hk : k < 5) : (m + 32 * s).testBit k = m.testBit k := by
  have := Nat.testBit_two_pow_mul_add s (show m < 2 ^ 5 by omega) k
  rw [if_pos hk] at this
  rw [← this]; congr 1; omega

/-- The assigned bits of a mask are its low five. -/
theorem mask_lt (it : TickItems) : it.mask < 32 := by
  unfold TickItems.mask flagBit
  repeat' split
  all_goals omega

/-- The assigned bits of a mask are 1 for the items the tick carries. -/
theorem mask_bits (it : TickItems) : it.mask.testBit 0 = it.last.isSome ∧ it.mask.testBit 1 = it.bid.isSome
    ∧ it.mask.testBit 2 = it.ask.isSome ∧ it.mask.testBit 3 = it.vol.isSome ∧ it.mask.testBit 4 = it.ref.isSome := by
  simp only [TickItems.mask]
  generalize it.last.isSome = l
  generalize it.bid.isSome = b
  generalize it.ask.isSome = a
  generalize it.vol.isSome = v
  generalize it.ref.isSome = r
  revert l b a v r
  decide

/-- A field past the bytes in front is a field of the bytes behind. -/
theorem fieldAt_drop_append (l r : List Byte) (o k : Nat) : fieldAt (l ++ r) (l.length + o) k = fieldAt r o k := by
  simp [fieldAt, List.drop_append, List.drop_of_length_le (Nat.le_add_right _ _)]

/-- The bytes an optional value takes. -/
theorem length_elim (o : Option Nat) : (o.elim [] (beBytes 4)).length = if o.isSome then 4 else 0 := by cases o <;> simp

/-- The value of an item whose bytes stand after the bytes of the items before it. -/
theorem fieldAt_elim (l r : List Byte) (o : Option Nat) (h : ∀ v ∈ o, v < 2 ^ 32) :
    (if o.isSome then some (fieldAt (l ++ (o.elim [] (beBytes 4) ++ r)) l.length 4) else none) = o := by
  cases o with
  | none => rfl
  | some v =>
    have := fieldAt_drop_append l (beBytes 4 v ++ r) 0 4
    simp only [Nat.add_zero] at this
    simp [this, fieldAt_zero_beBytes (k := 4) (n := v) _ (by have := h v rfl; omega)]

/-- A TICK of items that fit is read as it is, prices saturated (R38, R40). -/
theorem parse_tick (venue : Venue) (code : Code) (flags : Byte) (spare : Fin 8) (it : TickItems) (hf : it.Fits)
    (hm : it.mask ≠ 0) :
    parseTick (tickBytes venue code flags spare it) =
      .ok ⟨venue, code, flags.getLsbD 0, flags.getLsbD 1, it.saturated⟩ := by
  have hml := mask_lt it
  obtain ⟨m0, m1, m2, m3, m4⟩ := mask_bits it
  have hb : ∀ k, k < 5 → bitAt (it.mask + 32 * spare.val) k = it.mask.testBit k := fun k hk => testBit_spare hml hk
  obtain ⟨f1, f2, f3, f4, f5⟩ := hf
  -- the payload: the seven bytes before the values, and the values of each item
  obtain ⟨head, hh⟩ : ∃ head, head = beBytes 1 venue.val ++ beBytes 4 code.toNat ++ [flags]
      ++ beBytes 1 (it.mask + 32 * spare.val) := ⟨_, rfl⟩
  obtain ⟨L, hL⟩ : ∃ L, L = (match it.last with
      | some (price, size) => beBytes 4 price ++ beBytes 4 size | none => []) := ⟨_, rfl⟩
  have hp : tickBytes venue code flags spare it = head ++ (L ++ (it.bid.elim [] (beBytes 4) ++ (it.ask.elim [] (beBytes 4)
      ++ (it.vol.elim [] (beBytes 4) ++ it.ref.elim [] (beBytes 4))))) := by
    simp only [tickBytes, hh, hL, List.append_assoc]
    all_goals rfl
  have lh : head.length = 7 := by simp [hh]
  have lL : L.length = if it.last.isSome then 8 else 0 := by rw [hL]; rcases it.last with _ | ⟨p, sz⟩ <;> simp
  have hv : ∀ k, k ≤ 5 → valuesBefore (it.mask + 32 * spare.val) k
      = ((List.range k).map (fun i => if it.mask.testBit i then (if i = 0 then 8 else 4) else 0)).sum := by
    intro k hk
    unfold valuesBefore
    congr 1
    apply List.map_congr_left
    intro i hi
    rw [hb i (by have := List.mem_range.mp hi; omega)]
  have v0 : valuesBefore (it.mask + 32 * spare.val) 0 = 0 := rfl
  have v1 : valuesBefore (it.mask + 32 * spare.val) 1 = L.length := by rw [hv 1 (by omega), lL]; simp [m0]
  have v2 : valuesBefore (it.mask + 32 * spare.val) 2 = (L ++ it.bid.elim [] (beBytes 4)).length := by
    rw [hv 2 (by omega), List.length_append, lL, length_elim]; simp [List.range_succ, m0, m1]
  have v3 : valuesBefore (it.mask + 32 * spare.val) 3 = (L ++ it.bid.elim [] (beBytes 4) ++ it.ask.elim [] (beBytes 4)).length := by
    rw [hv 3 (by omega), List.length_append, List.length_append, lL, length_elim, length_elim]; simp [List.range_succ, m0, m1, m2, Nat.add_assoc]
  have v4 : valuesBefore (it.mask + 32 * spare.val) 4 = (L ++ it.bid.elim [] (beBytes 4) ++ it.ask.elim [] (beBytes 4)
      ++ it.vol.elim [] (beBytes 4)).length := by
    rw [hv 4 (by omega), List.length_append, List.length_append, List.length_append, lL, length_elim, length_elim, length_elim]
    simp [List.range_succ, m0, m1, m2, m3, Nat.add_assoc]
  have v5 : valuesBefore (it.mask + 32 * spare.val) 5 = (L ++ it.bid.elim [] (beBytes 4) ++ it.ask.elim [] (beBytes 4)
      ++ it.vol.elim [] (beBytes 4) ++ it.ref.elim [] (beBytes 4)).length := by
    rw [hv 5 (by omega), List.length_append, List.length_append, List.length_append, List.length_append, lL, length_elim,
      length_elim, length_elim, length_elim]
    simp [List.range_succ, m0, m1, m2, m3, m4, Nat.add_assoc]
  have skip : ∀ o k, fieldAt (tickBytes venue code flags spare it) (7 + o) k = fieldAt (L ++ (it.bid.elim [] (beBytes 4)
      ++ (it.ask.elim [] (beBytes 4) ++ (it.vol.elim [] (beBytes 4) ++ it.ref.elim [] (beBytes 4))))) o k := by
    intro o k; rw [hp, ← lh]; exact fieldAt_drop_append _ _ _ _
  have h6 : fieldAt (tickBytes venue code flags spare it) 6 1 = it.mask + 32 * spare.val := by
    rw [hp, hh]; simp only [List.append_assoc]
    simp [fieldAt_zero_beBytes (k := 1) (n := it.mask + 32 * spare.val) _ (by omega)]
  have h0 : fieldAt (tickBytes venue code flags spare it) 0 1 = venue.val := by
    rw [hp, hh]; simp only [List.append_assoc]; simp
  have h1 : fieldAt (tickBytes venue code flags spare it) 1 4 = code.toNat := by
    rw [hp, hh]; simp only [List.append_assoc]; simp
  have h5 : fieldAt (tickBytes venue code flags spare it) 5 1 = flags.toNat := by
    rw [hp, hh]; simp only [List.append_assoc]; simp
  have hlen : (tickBytes venue code flags spare it).length = tickLength (it.mask + 32 * spare.val) := by
    rw [tickLength, v5, hp]; simp [lh]
  have hit : tickItems (tickBytes venue code flags spare it) (it.mask + 32 * spare.val) = it.saturated := by
    have e0 : (tickValue (tickBytes venue code flags spare it) (it.mask + 32 * spare.val) 0).map
        (fun v => (saturatePrice v, fieldAt (tickBytes venue code flags spare it) 11 4))
        = it.last.map (fun x => (min x.1 999999999, x.2)) := by
      rw [tickValue, hb 0 (by omega), m0, v0, skip, show (11 : Nat) = 7 + 4 from rfl, skip, hL]
      cases hl : it.last with
      | none => rfl
      | some x =>
        have := f1 x hl
        simp [fieldAt_zero_beBytes (k := 4) (n := x.1) _ (by omega), fieldAt_zero_beBytes (k := 4) (n := x.2) _ (by omega),
          saturatePrice, Config.maxPrice]
    have e1 : tickValue (tickBytes venue code flags spare it) (it.mask + 32 * spare.val) 1 = it.bid := by
      rw [tickValue, hb 1 (by omega), m1, v1, skip]
      exact fieldAt_elim L _ it.bid f2
    have e2 : tickValue (tickBytes venue code flags spare it) (it.mask + 32 * spare.val) 2 = it.ask := by
      rw [tickValue, hb 2 (by omega), m2, v2, skip, ← List.append_assoc]
      exact fieldAt_elim _ _ it.ask f3
    have e3 : tickValue (tickBytes venue code flags spare it) (it.mask + 32 * spare.val) 3 = it.vol := by
      rw [tickValue, hb 3 (by omega), m3, v3, skip, ← List.append_assoc, ← List.append_assoc]
      exact fieldAt_elim _ _ it.vol f4
    have e4 : tickValue (tickBytes venue code flags spare it) (it.mask + 32 * spare.val) 4 = it.ref := by
      rw [tickValue, hb 4 (by omega), m4, v4, skip, ← List.append_assoc, ← List.append_assoc, ← List.append_assoc]
      have := fieldAt_elim (L ++ it.bid.elim [] (beBytes 4) ++ it.ask.elim [] (beBytes 4) ++ it.vol.elim [] (beBytes 4)) []
        it.ref f5
      rwa [List.append_nil] at this
    simp only [tickItems, e0, e1, e2, e3, e4]
    rfl
  have hr : (it.mask + 32 * spare.val) % 32 ≠ 0 := by omega
  have h7 : 7 ≤ (tickBytes venue code flags spare it).length := by rw [hp]; simp [lh]
  unfold parseTick
  rw [h6, h0, h1, h5, hit, if_neg (by omega), inRange_val]
  simp only [if_neg hr]
  simp [bitAt, BitVec.getLsbD]

end Sys2Proof.Machine
end

