-- ==== Sys2Proof/WellFormed.lean ====
section
/-! DEFINITION. Which commands are well formed: the two counts that R50 and R178 let a request's step carry lie within
what the manual's structures hold. Every other operand is well formed by its type. -/

namespace Sys2Proof

/-- A RELEASE deals with at most the 32 entries of the Staging List (R45), a STATUS makes at most its eleven reads (R178). -/
def Instr.wellFormed : Instr → Bool
  | .release entries => decide (entries ≤ 32)
  | .status reads => decide (reads ≤ 11)
  | .resetNAsserted | .resetNReleased _ _ | .initialisationEnd | .rxdCharacter _ _ | .frameGapTimeout | .recordSent => true
  | .badFrameAdmission | .overrunAdmission | .feedNotice | .missNotice | .unknownKind | .reset => true
  | .define | .clear | .halt | .resume | .setref | .openDay | .query => true
  | .install | .remove | .dflush | .dprobe | .mpurge => true
  | .tick | .discard | .heartbeat | .watch | .feedWatchExpiry | .heatScanStep => true
  | .map | .unmap | .mflush | .mprobe | .mfind | .settext => true
  | .setattr | .setpal | .heatcfg | .blink | .band | .showBand | .paint | .tapetext | .tapespeed => true
  | .frameStart | .bandClear _ | .taking | .curtainRelease _ | .rasterReading => true

/-- A queue of commands is well formed when each of its commands is. -/
def wellFormedQueue (cs : List Instr) : Bool := cs.all Instr.wellFormed

end Sys2Proof
end

