-- ==== Sys2Proof/Tests/Slice0.lean ====
section
/-! SUPPORT. Tests of one step each on small states, the smoke test of well-formedness, and, for every statement that has
hypotheses, states and operands that meet them together, clause by clause. -/

namespace Sys2Proof.Tests

open Sys2Proof Sys2Proof.Machine

set_option Elab.async false

/-! ### Helpers -/

/-- The next state of an outcome. -/
def nextOf : Host.Outcome State Fault Refusal → Option State
  | .next t => some t
  | .fault _ => none
  | .refused _ => none

/-- What a view sees in the state after one command. -/
def sees {α : Type} (c : Instr) (s : State) (view : State → α) : Option α := (nextOf (exec c s)).map view

/-- The running part as it stands after a reset. -/
def running : State := { State.reset with link := { State.reset.link with phase := .running } }

/-- The part runs, and a frame stands at the head of the Inbound Queue. -/
def offering (kind : Byte) (payload : List Byte) (s : State) : State :=
  { s with link := { s.link with phase := .running, inbound := [⟨kind, payload⟩] } }

/-- Instrument "AB" in slot 3, D2: last 44.11 after 44.00, bid 44.10, ask 44.12, high 44.20, low 43.90. -/
def quoteAB : Quote :=
  ⟨.active, [0x41, 0x42], .dec 2, some 4411, some 4400, some 4410, some 4412, some 4420, some 4390, 1000, 12, .up⟩

/-- A LAST field of slot 3 on board 2, at logical row 1, columns 2..8. -/
def lastField : Field := ⟨.live, .board 2, some 3, .last, 1, 2, 7, 0, false, [], false, Table.replicate 4 false⟩

/-- A TEXT field "HI" on every board, at logical row 0, columns 0..3. -/
def textField : Field := ⟨.live, .common, none, .text, 0, 0, 4, 1, true, [0x48, 0x49], false, Table.replicate 4 false⟩

/-- Band 1 shows board 2 on rows 2..5 in background 5, OPEN. -/
def boardBand : Band := ⟨4, 2, 0, 5, .board 2, .opened, 0, false⟩

/-- Band 2 shows TAPE on rows 30 and 31. -/
def tapeBand : Band := ⟨2, 30, 2, 4, .tape, .opened, 0, false⟩

/-- The directory entry of venue 5 and code 1234h for slot 3. -/
def entryAB : DirEntry := ⟨5, false, 0x1234, 3⟩

/-- A running part with one instrument, one directory entry, two fields, a board and a tape on the screen. -/
def trading : State :=
  { running with
    records := running.records.set 3 quoteAB
    directory := { running.directory with entries := running.directory.entries.set 0 (some entryAB) }
    fields := (running.fields.set 0 lastField).set 1 textField
    bands := (running.bands.set 1 boardBand).set 2 tapeBand }

/-- The second step of the Painter's work goes on, with nothing counted and these entries in the Dirty List. -/
def painting (dirty : List EntryIx) : State :=
  { trading with
    fields := dirty.foldl (fun (t : Table 256 Field) i => t.set i { t.get i with dirty := true }) trading.fields
    painter := { trading.painter with dirty := dirty, work := .taking 32 0 } }

/-! ### Well-formedness -/

theorem test_release_of_33_entries_ill_formed : (Instr.release 33).wellFormed = false := by decide
theorem test_release_of_32_entries_well_formed : (Instr.release 32).wellFormed = true := by decide
theorem test_status_of_12_reads_ill_formed : (Instr.status 12).wellFormed = false := by decide
theorem test_status_of_11_reads_well_formed : (Instr.status 11).wellFormed = true := by decide
theorem test_queue_with_one_ill_formed_command : wellFormedQueue [.define, .status 12] = false := by decide
theorem test_no_word_spells_a_command : decodeTableWord 8 0xFF = none ∧ trading.withFetchWord 8 0xFF = trading := by
  exact ⟨rfl, rfl⟩

/-! ### Resets -/

theorem test_reset_n_asserted :
    sees .resetNAsserted { trading with link := { trading.link with straps := ⟨true, false⟩ } }
      (fun t => (t.link.phase, t.link.cause, t.link.straps, t.records.get 3, t.painter.fillOwed)) =
      some (.held, .pin, ⟨true, false⟩, Quote.empty, true) := by decide +kernel

theorem test_reset_n_released :
    sees (.resetNReleased true false) State.reset (fun t => (t.link.phase, t.link.straps.baud)) =
      some (.initialising, 460800) := by decide +kernel

theorem test_initialisation_end :
    sees .initialisationEnd { State.reset with link := { State.reset.link with phase := .initialising, cause := .message } }
      (fun t => (t.link.phase, t.link.outbound, t.colour.scan.interval, t.rdy)) =
      some (.running, [.resetDone .message], some 200, true) := by decide +kernel

theorem test_reset :
    sees .reset (offering 0x01 [] trading)
      (fun t => (t.link.phase, t.link.cause, t.link.outbound, t.records.get 3, t.rdy)) =
      some (.initialising, .message, [], Quote.empty, false) := by decide +kernel

theorem test_reset_with_payload :
    sees .reset (offering 0x01 [7] trading) (fun t => (t.link.phase, t.link.outbound, t.records.get 3)) =
      some (.running, [.reject 0x01 .badLength], quoteAB) := by decide +kernel

/-! ### The link -/

/-- A HEARTBEAT frame is A5 00 1B E5: its sum without SYNC is 100h. -/
theorem test_rxd_check_completes_frame :
    sees (.rxdCharacter 0xE5 true) { running with link := { running.link with receiver := .gathering [0x00, 0x1B] } }
      (fun t => (t.link.receiver, t.link.inbound, t.link.badFrame)) = some (.hunting, [⟨0x1B, []⟩], none) := by
  decide +kernel

theorem test_rxd_line_error_discards_frame :
    sees (.rxdCharacter 0xE5 false) { running with link := { running.link with receiver := .gathering [0x00, 0x1B] } }
      (fun t => (t.link.receiver, t.link.inbound, t.link.badFrame)) = some (.hunting, [], some 0x1B) := by
  decide +kernel

theorem test_frame_gap_timeout_before_kind :
    sees .frameGapTimeout { running with link := { running.link with receiver := .gathering [0x05] } }
      (fun t => (t.link.receiver, t.link.badFrame)) = some (.hunting, some 0x00) := by decide +kernel

theorem test_record_sent :
    sees .recordSent { running with link := { running.link with outbound := [.ack 0x08 3, .feed 2] } }
      (fun t => t.link.outbound) = some [.feed 2] := by decide +kernel

theorem test_bad_frame_admission :
    sees .badFrameAdmission { running with link := { running.link with badFrame := some 0x18, overrun := some 0x19 } }
      (fun t => (t.link.badFrame, t.link.overrun, t.link.outbound)) =
      some (none, some 0x19, [.reject 0x18 .badFrame]) := by decide +kernel

theorem test_overrun_admission_waits_behind_bad_frame :
    sees .overrunAdmission { running with link := { running.link with badFrame := some 0x18, overrun := some 0x19 } }
      (fun t => (t.link.overrun, t.link.outbound)) = some (some 0x19, []) := by decide +kernel

theorem test_overrun_admission :
    sees .overrunAdmission { running with link := { running.link with overrun := some 0x19 } }
      (fun t => (t.link.overrun, t.link.outbound)) = some (none, [.reject 0x19 .overrun]) := by decide +kernel

theorem test_feed_notice :
    sees .feedNotice { running with intake := ⟨[], .stale 8⟩, link := { running.link with feedLatch := true } }
      (fun t => (t.link.feedLatch, t.link.outbound)) = some (false, [.feed 2]) := by decide +kernel

theorem test_miss_notice :
    sees .missNotice { running with directory := { running.directory with misses := [⟨1, 7, true⟩, ⟨2, 8, false⟩, ⟨3, 9, false⟩] } }
      (fun t => (t.directory.misses, t.link.outbound)) =
      some ([⟨1, 7, true⟩, ⟨2, 8, true⟩, ⟨3, 9, false⟩], [.miss 2 8]) := by decide +kernel

theorem test_unknown_kind :
    sees .unknownKind (offering 0x03 [1, 2] running) (fun t => (t.link.inbound, t.link.outbound)) =
      some ([], [.reject 0x03 .unknownKind]) := by decide +kernel

theorem test_status :
    sees (.status 11) (offering 0x02 [] trading) (fun t => t.link.outbound) =
      some [.status ⟨0, 0, 0, 0, 0, 0, 0, 0, 0, 32, 15⟩] := by decide +kernel

/-- An ACK of DEFINE for slot 3 is sent as A5 03 40 08 00 03 B2. -/
theorem test_ack_frame_bytes : (Record.ack 0x08 3).bytes = [0xA5, 0x03, 0x40, 0x08, 0x00, 0x03, 0xB2] := by decide +kernel

/-! ### The Instrument Table -/

theorem test_define :
    sees .define (offering 0x08 [0x00, 0x03, 0x08, 0x02, 0x41, 0x07] running)
      (fun t => (t.records.get 3, t.link.outbound)) =
      some (⟨.active, [0x41, 0x3F], .f32h, none, none, none, none, none, none, 0, 0, .none⟩, [.ack 0x08 3]) := by
  decide +kernel

theorem test_clear_keeps_format :
    sees .clear (offering 0x09 [0x00, 0x03] { trading with directory := running.directory })
      (fun t => (t.records.get 3, t.painter.dirty, t.link.outbound)) =
      some ({ Quote.empty with format := .dec 2 }, [0], [.ack 0x09 3]) := by decide +kernel

theorem test_clear_refused_in_use :
    sees .clear (offering 0x09 [0x00, 0x03] trading) (fun t => (t.records.get 3, t.link.outbound)) =
      some (quoteAB, [.reject 0x09 .inUse]) := by decide +kernel

theorem test_halt :
    sees .halt (offering 0x0A [0x00, 0x03] trading) (fun t => (t.records.get 3, t.painter.dirty, t.link.outbound)) =
      some ({ quoteAB with state := .halted }, [0], [.ack 0x0A 3]) := by decide +kernel

theorem test_resume_of_empty :
    sees .resume (offering 0x0B [0x00, 0x04] trading) (fun t => t.link.outbound) =
      some [.reject 0x0B .badState] := by decide +kernel

theorem test_setref_saturates :
    sees .setref (offering 0x0C [0x00, 0x03, 0x01, 0xFF, 0xFF, 0xFF, 0xFF] trading)
      (fun t => ((t.records.get 3).reference, t.link.outbound)) = some (some 999999999, [.ack 0x0C 3]) := by decide +kernel

theorem test_open_day :
    sees .openDay (offering 0x0D [] trading) (fun t => (t.records.get 3, t.painter.dirty, t.link.outbound)) =
      some (⟨.active, [0x41, 0x42], .dec 2, none, some 4411, none, none, none, none, 0, 0, .none⟩, [0], [.ack 0x0D 1]) := by
  decide +kernel

theorem test_query :
    sees .query (offering 0x0E [0x00, 0x03] trading) (fun t => t.link.outbound) = some [.quote 3 quoteAB] := by
  decide +kernel

/-! ### The Symbol Directory -/

theorem test_install :
    sees .install (offering 0x10 [0x06, 0x00, 0x00, 0x00, 0x12, 0x34, 0x00, 0x03] trading)
      (fun t => (t.directory.entries.get 1, t.link.outbound)) = some (some ⟨6, false, 0x1234, 3⟩, [.ack 0x10 1]) := by
  decide +kernel

theorem test_install_conflict :
    sees .install (offering 0x10 [0x06, 0x01, 0x00, 0x00, 0x12, 0x34, 0x00, 0x03] trading)
      (fun t => (t.directory.entries.get 1, t.link.outbound)) = some (none, [.reject 0x10 .conflict]) := by decide +kernel

theorem test_remove :
    sees .remove (offering 0x11 [0x05, 0x00, 0x00, 0x00, 0x12, 0x34] trading)
      (fun t => (t.directory.entries.get 0, t.link.outbound)) = some (none, [.ack 0x11 0]) := by decide +kernel

theorem test_dflush_of_venue :
    sees .dflush (offering 0x12 [0x05] trading) (fun t => (t.directory.entries.get 0, t.link.outbound)) =
      some (none, [.ack 0x12 1]) := by decide +kernel

theorem test_dprobe_of_other_venue :
    sees .dprobe (offering 0x13 [0x06, 0x00, 0x00, 0x12, 0x34] trading) (fun t => t.link.outbound) =
      some [.dentry ⟨false, 0, 6, false, 0x1234, 0⟩] := by decide +kernel

theorem test_mpurge :
    sees .mpurge (offering 0x14 [] { running with directory := { running.directory with misses := [⟨1, 7, true⟩], overflow := true } })
      (fun t => (t.directory.misses, t.directory.overflow, t.link.outbound)) = some ([], false, [.ack 0x14 1]) := by
  decide +kernel

/-! ### Quote Intake -/

/-- A LAST of 44.25 by 100 with TAPE set, applied at once: up, flash heat 15, a new high, volume 1,100, one print. -/
theorem test_tick_applied :
    sees .tick (offering 0x18 [0x05, 0x00, 0x00, 0x12, 0x34, 0x02, 0x01, 0x00, 0x00, 0x11, 0x49, 0x00, 0x00, 0x00, 0x64] trading)
      (fun t => (t.records.get 3, t.painter.dirty, t.tape.queue, t.link.outbound)) =
      some ({ quoteAB with last := some 4425, high := some 4425, volume := 1100, heat := 15 }, [0],
        [[0x41, 0x42, 0x20, 0x34, 0x34, 0x2E, 0x32, 0x35, 0x18, 0x20, 0x31, 0x30, 0x30, 0x20, 0x20, 0x20]], []) := by
  decide +kernel

theorem test_tick_missed :
    sees .tick (offering 0x18 [0x06, 0x00, 0x00, 0x12, 0x34, 0x00, 0x02, 0x00, 0x00, 0x11, 0x49] trading)
      (fun t => (t.records.get 3, t.directory.misses, t.link.outbound)) = some (quoteAB, [⟨6, 0x1234, false⟩], []) := by
  decide +kernel

theorem test_release_applies_in_order :
    sees (.release 32) (offering 0x19 [] { trading with intake :=
        ⟨[⟨3, false, ⟨none, some 4401, none, none, none⟩⟩, ⟨4, false, ⟨none, some 9, none, none, none⟩⟩,
          ⟨3, false, ⟨none, some 4402, none, none, none⟩⟩], .off⟩ })
      (fun t => ((t.records.get 3).bid, t.records.get 4, t.intake.staging, t.link.outbound)) =
      some (some 4402, Quote.empty, [], [.ack 0x19 2]) := by decide +kernel

theorem test_discard :
    sees .discard (offering 0x1A [] { trading with intake := ⟨[⟨3, false, ⟨none, some 4401, none, none, none⟩⟩], .off⟩ })
      (fun t => (t.records.get 3, t.intake.staging, t.link.outbound)) = some (quoteAB, [], [.ack 0x1A 1]) := by decide +kernel

/-- A BID of 44.25 between two takings: the record has it, and its mark is still to come (R60). -/
theorem test_tick_between_takings :
    sees .tick (offering 0x18 [0x05, 0x00, 0x00, 0x12, 0x34, 0x00, 0x02, 0x00, 0x00, 0x11, 0x49] (painting [0]))
      (fun t => ((t.records.get 3).bid, t.painter.dirty, t.owed)) = some (some 4425, [0], some (.lookups 3 [.bid])) := by
  decide +kernel

/-- The tick first, then the taking: the field is rendered with the new last price, 44.25, and its mark is still to come; the next
step queues it for one more render (R60). -/
theorem test_taking_before_the_marks_of_a_tick :
    let s : State := { painting [0, 1] with
      records := trading.records.set 3 { quoteAB with last := some 4425 }, owed := some (.lookups 3 [.last]) }
    sees .taking s (fun t => (t.painter.dirty, t.owed, (t.painter.cells.at 3 7).code)) =
        some ([1], some (.lookups 3 [.last]), 0x32)
      ∧ sees (.bandClear 0) { painting [1] with owed := some (.lookups 3 [.last]) } (fun t => (t.painter.dirty, t.owed)) =
        some ([1, 0], none) := by decide +kernel

/-- A RELEASE between two takings ends with the mark of its last tick. -/
theorem test_release_between_takings :
    let s : State := { painting [1] with intake := ⟨[⟨3, false, ⟨none, some 4401, none, none, none⟩⟩], .off⟩ }
    sees (.release 32) (offering 0x19 [] s) (fun t => (t.carrying, t.owed, t.link.outbound)) =
        some (.release 32 1, some (.lookups 3 [.bid]), [])
      ∧ sees (.release 1) { s with carrying := .release 32 1, owed := some (.lookups 3 [.last]) }
        (fun t => (t.carrying, t.painter.dirty, t.intake.staging, t.link.outbound)) =
        some (.idle, [1, 0], [], [.ack 0x19 1]) := by decide +kernel

theorem test_heartbeat_recovers :
    sees .heartbeat (offering 0x1B [] { trading with intake := ⟨[], .stale 8⟩ })
      (fun t => (t.intake.watch, t.painter.dirty, t.link.feedLatch, t.link.outbound, t.carrying)) =
      some (.fresh 8 8, [0], true, [], .answering (.ack 0x1B 1)) := by decide +kernel

/-- The recovery of a HEARTBEAT has set the FEED latch: the notice enters before the ACK, or the Interpreter's next step places the ACK
first; with one place free the notice waits (R177). -/
theorem test_answer_and_feed_notice_in_either_order :
    let s : State := { trading with
      intake := ⟨[], .fresh 8 8⟩, carrying := .answering (.ack 0x1B 1), link := { trading.link with feedLatch := true } }
    sees .feedNotice s (fun t => (t.link.outbound, t.carrying, t.link.feedLatch)) = some ([.feed 1, .ack 0x1B 1], .idle, false)
      ∧ sees .unknownKind s (fun t => (t.link.outbound, t.carrying, t.link.feedLatch)) = some ([.ack 0x1B 1], .idle, true)
      ∧ sees .feedNotice { s with link := { s.link with outbound := List.replicate 15 (.feed 1) } }
        (fun t => (t.link.outbound.length, t.carrying, t.link.feedLatch)) = some (15, .answering (.ack 0x1B 1), true) := by
  decide +kernel

/-- An INSTALL removes the oldest miss, and the MISS notice of the next one enters before its ACK (R35, R177). -/
theorem test_miss_notice_before_the_ack_of_an_install :
    let s : State := { trading with
      directory := { trading.directory with misses := [⟨6, 0x1234, false⟩, ⟨7, 8, false⟩] } }
    sees .install (offering 0x10 [0x06, 0x00, 0x00, 0x00, 0x12, 0x34, 0x00, 0x03] s)
        (fun t => (t.directory.misses, t.link.outbound, t.carrying)) = some ([⟨7, 8, false⟩], [], .answering (.ack 0x10 1))
      ∧ sees .missNotice { s with
          directory := { s.directory with misses := [⟨7, 8, false⟩] }, carrying := .answering (.ack 0x10 1) }
        (fun t => (t.directory.misses, t.link.outbound, t.carrying)) =
        some ([⟨7, 8, true⟩], [.miss 7 8, .ack 0x10 1], .idle) := by decide +kernel

theorem test_watch_clamps :
    sees .watch (offering 0x1C [0xFF] trading) (fun t => (t.intake.watch, t.painter.dirty, t.link.outbound)) =
      some (.fresh 63 63, [], [.ack 0x1C 63]) := by decide +kernel

theorem test_feed_watch_expiry :
    sees .feedWatchExpiry { trading with intake := ⟨[], .fresh 8 1⟩ }
      (fun t => (t.intake.watch, t.painter.dirty, t.link.feedLatch)) = some (.stale 8, [0], true) := by decide +kernel

/-! ### Heat and colour -/

/-- From 12 to 11 the heat leaves the flash band, and LAST is marked. -/
theorem test_heat_scan_step :
    sees .heatScanStep { trading with colour := { trading.colour with scan := ⟨3, true, 3, 3, some 200⟩ } }
      (fun t => ((t.records.get 3).heat, t.painter.dirty, t.colour.scan.position, t.owed)) = some (11, [0], 4, none) := by
  decide +kernel

/-- The same crossing between two takings: the mark is still to come, and a taking may fall before it (R109). -/
theorem test_heat_scan_step_between_takings :
    sees .heatScanStep { painting [1] with colour := { trading.colour with scan := ⟨3, true, 3, 3, some 200⟩ } }
      (fun t => ((t.records.get 3).heat, t.painter.dirty, t.owed)) = some (11, [1], some (.lookups 3 [.last])) := by
  decide +kernel

/-- The scan first, then a HALT of the slot: the scan's mark of LAST comes before the command's, of SYM and LAST (R20). -/
theorem test_marks_of_the_scan_before_those_of_a_command :
    let s : State := painting [1]
    sees .halt (offering 0x0A [0x00, 0x03]
        { s with fields := s.fields.set 2 { lastField with item := .sym, row := 2 }, owed := some (.lookups 3 [.last]) })
      (fun t => (t.painter.dirty, t.owed, t.link.outbound)) = some ([1, 0, 2], none, [.ack 0x0A 3]) := by decide +kernel

theorem test_heatcfg :
    sees .heatcfg (offering 0x2A [0x00, 0x01, 0x00, 0x00] trading) (fun t => (t.colour.flashHeat, t.colour.scan, t.link.outbound)) =
      some (1, ⟨0, true, 0, 0, some 25⟩, [.ack 0x2A 1]) := by decide +kernel

theorem test_setattr :
    sees .setattr (offering 0x28 [0x0F, 0x01, 0x02, 0x01, 0x00] trading)
      (fun t => (t.colour.attrs.get 15, t.painter.dirty, t.link.outbound)) = some (⟨1, 2, true, false⟩, [], [.ack 0x28 15]) := by
  decide +kernel

theorem test_setpal :
    sees .setpal (offering 0x29 [0x01, 0x0D, 0x07] trading)
      (fun t => ((t.colour.palettes.get 1).get 13, t.painter.dirty, t.link.outbound)) = some (7, [1], [.ack 0x29 7]) := by
  decide +kernel

/-- The same between two takings: the sweep and its ACK are still to come (R117). -/
theorem test_setpal_between_takings :
    sees .setpal (offering 0x29 [0x00, 0x0D, 0x07] (painting [1]))
      (fun t => ((t.colour.palettes.get 0).get 13, t.painter.dirty, t.link.outbound, t.owed)) =
      some (7, [1], [], some (.sweep 0 7)) := by decide +kernel

/-- The next step that is no taking makes the sweep, with the ACK at its end (R116, R117). -/
theorem test_sweep_of_a_setpal :
    sees .frameStart { painting [1] with owed := some (.sweep 0 7) }
      (fun t => (t.painter.dirty, t.link.outbound, t.owed)) = some ([1, 0], [.ack 0x29 7], none) := by decide +kernel

theorem test_class_of_last :
    classOf .last false quoteAB .shown false = .up3 ∧ classOf .last false { quoteAB with heat := 11 } .shown false = .up2
      ∧ classOf .last true quoteAB .shown false = .neutral ∧ classOf .last false quoteAB .shown true = .stale := by decide

/-! ### The Formatter -/

/-- The manual's examples of the notations: 44.11, 0.07, 101-24+, 101-10+, 25-5. -/
theorem test_price_notations :
    naturalPrice (.dec 2) 4411 = [0x34, 0x34, 0x2E, 0x31, 0x31] ∧ naturalPrice (.dec 2) 7 = [0x30, 0x2E, 0x30, 0x37]
      ∧ naturalPrice .f32h 6513 = [0x31, 0x30, 0x31, 0x2D, 0x32, 0x34, 0x2B]
      ∧ naturalPrice .f32e 25940 = [0x31, 0x30, 0x31, 0x2D, 0x31, 0x30, 0x2B]
      ∧ naturalPrice .f8 205 = [0x32, 0x35, 0x2D, 0x35] := by decide +kernel

/-- The net change +0.11 and the percent +0.25% of 44.11 from 44.00. -/
theorem test_net_and_percent :
    (render .net quoteAB [] 7).fitted.chars = [0x20, 0x20, 0x2B, 0x30, 0x2E, 0x31, 0x31]
      ∧ (render .pct quoteAB [] 7).fitted.chars = [0x20, 0x2B, 0x30, 0x2E, 0x32, 0x35, 0x25] := by decide +kernel

/-! ### The Field Map -/

theorem test_map :
    sees .map (offering 0x20 [0x02, 0x00, 0x03, 0x04, 0x01, 0x0A, 0x06, 0x00, 0x00, 0x00] trading)
      (fun t => (t.fields.get 2, t.painter.dirty, t.link.outbound)) =
      some (⟨.live, .board 2, some 3, .bid, 1, 10, 6, 0, false, [], true, Table.replicate 4 false⟩, [2], [.ack 0x20 2]) := by
  decide +kernel

theorem test_map_overlap :
    sees .map (offering 0x20 [0x10, 0x00, 0x03, 0x04, 0x01, 0x08, 0x06, 0x00, 0x00, 0x00] trading)
      (fun t => ((t.fields.get 2).state, t.link.outbound)) = some (.free, [.reject 0x20 .overlap]) := by decide +kernel

theorem test_unmap :
    sees .unmap (offering 0x21 [0x00] trading) (fun t => ((t.fields.get 0).state, t.painter.dirty, t.link.outbound)) =
      some (.erasing, [0], [.ack 0x21 0]) := by decide +kernel

theorem test_mflush_of_common :
    sees .mflush (offering 0x22 [0x10] trading)
      (fun t => (t.fields.get 1, t.painter.dirty, (t.bands.get 1).curtain, (t.bands.get 1).count, t.link.outbound)) =
      some (Field.free, [0], .curtained, 1, [.ack 0x22 1]) := by decide +kernel

theorem test_mprobe_of_free_entry :
    sees .mprobe (offering 0x23 [0x09] trading) (fun t => t.link.outbound) =
      some [.field ⟨true, 9, 0, 0, 0xFFFF, 0, 0, 0, 0, 0, false, false, [false, false, false, false], []⟩] := by decide +kernel

theorem test_mfind :
    sees .mfind (offering 0x24 [0x00, 0x03, 0x01, 0x02] trading) (fun t => t.link.outbound) =
      some [.field ⟨true, 0, 1, 2, 3, 1, 1, 2, 7, 0, false, false, [false, false, false, false], []⟩] := by decide +kernel

theorem test_settext :
    sees .settext (offering 0x25 [0x01, 0x01, 0x4F] trading)
      (fun t => ((t.fields.get 1).text, t.painter.dirty, t.link.outbound)) = some ([0x4F], [1], [.ack 0x25 1]) := by decide +kernel

/-- A SETTEXT and an UNMAP between two takings append an entry that the step has painted, to be taken in its turn (R127, R129). -/
theorem test_settext_and_unmap_between_takings :
    sees .settext (offering 0x25 [1, 1, 0x4F] (painting [0]))
        (fun t => ((t.fields.get 1).text, t.painter.dirty, t.link.outbound)) = some ([0x4F], [0, 1], [.ack 0x25 1])
      ∧ sees .unmap (offering 0x21 [0] (painting [1])) (fun t => ((t.fields.get 0).state, t.painter.dirty, t.link.outbound)) =
        some (.erasing, [1, 0], [.ack 0x21 0]) := by decide +kernel

/-! ### Bands, Painter, Raster and Tape -/

theorem test_blink :
    sees .blink (offering 0x2B [0x00] { trading with raster := { trading.raster with blinkCount := 9 } })
      (fun t => (t.raster.blinkPeriod, t.raster.blinkCount, t.raster.blinkOn, t.link.outbound)) =
      some (2, 0, true, [.ack 0x2B 2]) := by decide +kernel

theorem test_band_overlap :
    sees .band (offering 0x30 [0x00, 0x05, 0x01, 0x00, 0x00] trading) (fun t => (t.bands.get 0, t.link.outbound)) =
      some (Band.reset, [.reject 0x30 .overlap]) := by decide +kernel

theorem test_band_refreshes_board :
    sees .band (offering 0x30 [0x01, 0x06, 0x04, 0x01, 0x03] trading)
      (fun t => (t.bands.get 1, t.painter.dirty, t.link.outbound)) =
      some (⟨4, 6, 1, 3, .board 2, .curtained, 2, true⟩, [0, 1], [.ack 0x30 1]) := by decide +kernel

theorem test_show_leaves_tape :
    sees .showBand (offering 0x31 [0x02, 0x02] { trading with tape := ⟨[[0x41]], [0x42], 3, 1, true⟩ })
      (fun t => (t.bands.get 1, t.bands.get 2, t.tape, t.link.outbound)) =
      some (⟨4, 2, 0, 5, .nothing, .opened, 0, true⟩, ⟨2, 30, 2, 4, .board 2, .curtained, 2, true⟩, ⟨[], [], 0, 1, false⟩,
        [.ack 0x31 2]) := by decide +kernel

theorem test_show_second_tape_refused :
    sees .showBand (offering 0x31 [0x01, 0x11] trading) (fun t => (t.bands.get 1, t.link.outbound)) =
      some (boardBand, [.reject 0x31 .badState]) := by decide +kernel

theorem test_paint_clamps :
    sees .paint (offering 0x32 [0x41] trading) (fun t => (t.painter.budget, t.link.outbound)) =
      some (64, [.ack 0x32 64]) := by decide +kernel

theorem test_tapetext :
    sees .tapetext (offering 0x38 [0x02, 0x48, 0x07] trading) (fun t => (t.tape.queue, t.link.outbound)) =
      some ([[0x48, 0x3F, 0x20, 0x20, 0x20]], [.ack 0x38 1]) := by decide +kernel

theorem test_tapespeed_clamps :
    sees .tapespeed (offering 0x39 [0x09] trading) (fun t => (t.tape.baseSpeed, t.link.outbound)) =
      some (4, [.ack 0x39 4]) := by decide +kernel

/-- The sixteenth frame start changes the phase over; the tape's empty ring takes its spaces, then an item. -/
theorem test_frame_start :
    sees .frameStart { trading with
        raster := { trading.raster with blinkCount := 15 }, tape := ⟨[[0x41, 0x20, 0x20, 0x20]], [], 0, 2, false⟩ }
      (fun t => ((t.raster.blinkOn, t.raster.blinkCount), (t.tape.offset, t.tape.queue, t.tape.ring.length))) =
      some ((false, 0), (2, [], 101)) := by decide +kernel

theorem test_band_clear :
    sees (.bandClear 1) { trading with
        bands := trading.bands.set 1 { boardBand with clearPending := true, curtain := .curtained }
        painter := { trading.painter with work := .clearing ⟨[.mayLook, .owed, .mayLook, .mayLook], rfl⟩ none } }
      (fun t => ((t.bands.get 1).clearPending, (t.bands.get 1).count, t.painter.dirty, t.painter.cells.at 5 95,
        t.painter.cells.at 6 0)) =
      some (false, 2, [0, 1], ⟨0x20, 5, .whole⟩, ⟨0x20, 0, .whole⟩) := by decide +kernel

/-- The field shows " 44.11" in UP3, its first two positions in the fill attribute; the list is then empty and the step stops. -/
theorem test_taking :
    sees .taking (painting [0])
      (fun t => (((t.fields.get 0).dirty, t.painter.dirty, t.painter.work),
        [t.painter.cells.at 3 3, t.painter.cells.at 3 4, t.painter.cells.at 3 8, t.painter.cells.at 3 9])) =
      some ((false, [], .releasing (Table.replicate 4 .mayLook)),
        [⟨0x20, 0, .whole⟩, ⟨0x34, 5, .whole⟩, ⟨0x31, 5, .whole⟩, ⟨0x20, 0, .whole⟩]) := by
  decide +kernel

/-- An entry marked after the second step has stopped is left in the list (R129). -/
theorem test_taking_after_the_stop :
    sees .taking { trading with
        fields := trading.fields.set 0 { lastField with dirty := true }
        painter := { trading.painter with dirty := [0], work := .releasing (Table.replicate 4 .mayLook) } }
      (fun t => (t.painter.dirty, t.painter.work)) = some ([0], .releasing (Table.replicate 4 .mayLook)) := by decide +kernel

/-- With nothing to clear and an empty list, the work of a frame start may be over at once (R129). -/
theorem test_frame_start_with_no_work :
    sees .frameStart trading (fun t => (t.painter.work, t.workDone)) =
      some (.clearing (Table.replicate 4 .mayLook) (some (Table.replicate 4 .mayLook)), true) := by decide +kernel

theorem test_curtain_release :
    sees (.curtainRelease 1) { trading with
        bands := trading.bands.set 1 { boardBand with curtain := .curtained }
        painter := { trading.painter with work := .releasing ⟨[.mayLook, .owed, .mayLook, .mayLook], rfl⟩ } }
      (fun t => (t.bands.get 1).curtain) = some .opened := by decide +kernel

theorem test_raster_reading :
    sees .rasterReading { trading with tape := ⟨[], [0x41], 3, 2, true⟩ } (fun t => t.raster.reading) =
      some (some ⟨trading.bands, [0x41], 3, true, 1, 12⟩) := by decide +kernel

/-- An entry marked after such a frame start does not hold the reading up, and stays in the list. -/
theorem test_raster_reading_after_a_mark :
    sees .rasterReading { trading with
        fields := trading.fields.set 0 { lastField with dirty := true }
        painter := { trading.painter with
          dirty := [0], work := .clearing (Table.replicate 4 .mayLook) (some (Table.replicate 4 .mayLook)) } }
      (fun t => (t.raster.reading.isSome, t.painter.dirty, t.painter.work)) = some (true, [0], .idle) := by decide +kernel

/-- Line 49 begins the active picture, dot 960 the blanking of a line, and dot 1,008 the sync pulse. -/
theorem test_video_out :
    (videoOut State.reset 3 1008).hsync = false ∧ (videoOut State.reset 3 1008).vsync = false
      ∧ (videoOut State.reset 49 0).hsync = true ∧ (videoOut State.reset 49 0).red = false
      ∧ (videoOut State.reset 624 1136).hsync = true := by decide +kernel

/-! ### What the small states hold -/

theorem running_entries (i : DirIx) : running.directory.entries.get i = none := by
  simp [running, State.reset]

theorem trading_entries (i : DirIx) : trading.directory.entries.get i = if i = 0 then some entryAB else none := by
  simp [trading, running, State.reset, Table.get_set]

theorem trading_records (slot : Slot) : trading.records.get slot = if slot = 3 then quoteAB else Quote.empty := by
  simp [trading, running, State.reset, Table.get_set]

theorem trading_fields (i : EntryIx) :
    trading.fields.get i = if i = 1 then textField else if i = 0 then lastField else Field.free := by
  simp [trading, running, State.reset, Table.get_set]

theorem trading_live : ∀ i : EntryIx, (trading.fields.get i).state = .live → i = 0 ∨ i = 1 := by decide +kernel

theorem trading_directory_lawful : trading.DirectoryLawful where
  unambiguous := by
    intro i j e x venue code hi hj _ _
    rw [trading_entries] at hi hj
    split at hi <;> split at hj <;> simp_all
  defined := by
    intro i e hi
    rw [trading_entries] at hi
    split at hi
    · cases hi; decide +kernel
    · cases hi
  distinct := by simp [trading, running, State.reset]
  unmatched := by simp [trading, running, State.reset]

theorem trading_layout_lawful : trading.LayoutLawful where
  ranges := by
    intro i hi
    rw [trading_fields] at hi ⊢
    split at hi
    · rename_i h; rw [if_pos h]; exact ⟨by decide, by decide, by decide, by decide, by decide, by decide, by decide⟩
    · rename_i h; rw [if_neg h]
      split at hi
      · rename_i h; rw [if_pos h]; exact ⟨by decide, by decide, by decide, by decide, by decide, by decide, by decide⟩
      · exact absurd rfl hi
  cells := by
    intro i j hij hi hj _
    rcases trading_live i hi with rfl | rfl <;> rcases trading_live j hj with rfl | rfl
    · exact absurd rfl hij
    · decide +kernel
    · decide +kernel
    · exact absurd rfl hij
  items := by
    intro i j hij hi hj _
    rcases trading_live i hi with rfl | rfl <;> rcases trading_live j hj with rfl | rfl
    · exact absurd rfl hij
    · decide +kernel
    · decide +kernel
    · exact absurd rfl hij

/-! ### States and operands that meet the statements' hypotheses, clause by clause -/

theorem meets_StepRunsFrontCommand :
    ({ trading with pending := [.define, .tick] } : State).pending = .define :: [.tick] ∧ trading.pending = [] := ⟨rfl, rfl⟩

/-- DEFINE of slot 3 whose payload is one byte short, and of slot 512. -/
theorem meets_LengthAndRangeChecks :
    requestKind .define = some 0x08
      ∧ (offering 0x08 [0, 3, 2, 2, 0x41] trading).Offers 0x08 [0, 3, 2, 2, 0x41]
      ∧ lengthOk .define [0, 3, 2, 2, 0x41] = false
      ∧ (offering 0x08 [2, 0, 2, 1, 0x41] trading).Offers 0x08 [2, 0, 2, 1, 0x41]
      ∧ lengthOk .define [2, 0, 2, 1, 0x41] = true ∧ rangeOk .define [2, 0, 2, 1, 0x41] = false := by decide +kernel

/-- A HALT of an EMPTY slot; and STATUS steps with a full Outbound Queue, while held, and with no frame. -/
theorem meets_RefusalsAndWaitingFrames :
    requestKind .halt = some 0x0A ∧ (offering 0x0A [0, 4] trading).Offers 0x0A [0, 4]
      ∧ sees .halt (offering 0x0A [0, 4] trading) (fun t => t.link.outbound) =
          some ((offering 0x0A [0, 4] trading).link.outbound ++ [.reject 0x0A .badState])
      ∧ ¬(Instr.halt = .tick ∧ Reason.badState = .stageFull) ∧ ¬(Instr.halt = .tapetext ∧ Reason.badState = .full)
      ∧ (requestKind (.status 11)).isSome = true ∧ trading.carrying = .idle ∧ trading.owed = none
      ∧ State.reset.owed = none ∧ State.reset.carrying = .idle
      ∧ 16 ≤ (List.replicate 16 (Record.feed 1)).length ∧ State.reset.link.phase ≠ .running ∧ trading.link.inbound = [] := by
  decide +kernel

/-- A HALT step while each request that may be made in parts is being carried out, and the step that goes on with a RELEASE. -/
theorem meets_RefusalsAndWaitingFrames_carrying :
    (requestKind .halt).isSome = true
      ∧ ({ trading with carrying := .release 1 1 } : State).carrying = .release 1 1 ∧ (∀ n, Instr.halt ≠ .release n)
      ∧ ({ trading with carrying := .status 3 StatusReply.blank } : State).carrying = .status 3 StatusReply.blank
      ∧ (∀ n, Instr.halt ≠ .status n)
      ∧ sees (.release 5) { offering 0x0A [0, 3] trading with carrying := .release 1 1 } (fun t => t.link.inbound) =
          some [⟨0x0A, [0, 3]⟩] :=
  ⟨by decide, rfl, fun _ => nofun, rfl, fun _ => nofun, by decide +kernel⟩

theorem meets_ResetPinAndInitialisation :
    State.reset.link.phase = .held
      ∧ ({ State.reset with link := { State.reset.link with phase := .initialising } } : State).link.phase = .initialising :=
  ⟨rfl, rfl⟩

theorem meets_ResetMessage :
    (offering 0x01 [] trading).Offers 0x01 [] ∧ (offering 0x01 [0] trading).Offers 0x01 [0] := by decide +kernel

/-- The bytes of the five cases of a byte inside a frame, at LEN 249, 248, 0 and with 7 and 8 frames queued. -/
theorem meets_ReceiverAndTransmitter :
    State.reset.link.phase ≠ .running ∧ running.link.phase = .running ∧ running.link.receiver = .hunting
      ∧ 248 < (([] ++ [0xF9] : List Byte).getD 0 0).toNat
      ∧ (([] ++ [0xF8] : List Byte).getD 0 0).toNat ≤ 248
      ∧ ([] ++ [0xF8] : List Byte).length ≠ (([] ++ [0xF8] : List Byte).getD 0 0).toNat + 3
      ∧ ([0, 0x1B] ++ [0xE4] : List Byte).length = (([0, 0x1B] ++ [0xE4] : List Byte).getD 0 0).toNat + 3
      ∧ (([0, 0x1B] ++ [0xE4] : List Byte).map (fun x => x.toNat)).sum % 256 ≠ 0
      ∧ ([0, 0x1B] ++ [0xE5] : List Byte).length = (([0, 0x1B] ++ [0xE5] : List Byte).getD 0 0).toNat + 3
      ∧ (([0, 0x1B] ++ [0xE5] : List Byte).map (fun x => x.toNat)).sum % 256 = 0
      ∧ (List.replicate 7 (⟨0x1B, []⟩ : LinkFrame)).length < 8 ∧ 8 ≤ (List.replicate 8 (⟨0x1B, []⟩ : LinkFrame)).length := by
  decide +kernel

/-- RDY is high with 7 frames queued and low with 8. -/
theorem test_ready_line :
    ({ running with link := { running.link with inbound := List.replicate 7 ⟨0x1B, []⟩ } } : State).rdy = true
      ∧ ({ running with link := { running.link with inbound := List.replicate 8 ⟨0x1B, []⟩ } } : State).rdy = false := by
  decide +kernel

theorem meets_FrameRoundTrip :
    (List.replicate 248 (0xA5 : Byte)).length ≤ 248 ∧ running.link.phase = .running ∧ running.link.receiver = .hunting
      ∧ running.link.inbound.length < 8 := by decide +kernel

theorem meets_FramesSent :
    (List.replicate 248 (0xFF : Byte)).length ≤ 248 ∧ quoteAB.symbol.length ≤ 8
      ∧ ((quoteAB.state, 1) : RecState × Nat) ∈ [(.empty, 0), (.active, 1), (.halted, 2)] ∧ quoteAB.format = .dec 2
      ∧ ((quoteAB.direction, 1) : Direction × Nat) ∈ [(.none, 0), (.up, 1), (.down, 2)]
      ∧ running.link.outbound = [] ∧ State.sending { running with link := { running.link with outbound := [.feed 1] } } =
          some [0xA5, 0x01, 0x62, 0x01, 0x9C]
      ∧ (describe true 1 textField).unpainted.length = 4 ∧ (describe true 1 textField).text.length ≤ 16 := by decide +kernel

/-- Each class waiting alone with 14 records queued; and 15 records, and each class before a later one. -/
theorem meets_QueueAdmissionsInOrder :
    (List.replicate 14 (Record.feed 1)).length + 2 ≤ 16 ∧ 16 < (List.replicate 15 (Record.feed 1)).length + 2
      ∧ (some 0x18 : Option Byte) = some 0x18 ∧ running.link.badFrame = none ∧ running.link.overrun = none
      ∧ running.link.feedLatch = false
      ∧ ([⟨1, 7, true⟩, ⟨2, 8, false⟩, ⟨3, 9, false⟩] : List Miss) = [⟨1, 7, true⟩] ++ ⟨2, 8, false⟩ :: [⟨3, 9, false⟩]
      ∧ ∀ x ∈ ([⟨1, 7, true⟩] : List Miss), x.notified = true := by decide +kernel

/-- An answer still to be placed while each class waits alone, and while none does, with no marks still to come; an Interpreter's step
and another. -/
theorem meets_QueueAdmissionsInOrder_answers :
    ({ trading with carrying := .answering (.feed 1) } : State).carrying = .answering (.feed 1) ∧ trading.owed = none
      ∧ trading.classWaits = false ∧ State.classWaits { trading with link := { trading.link with badFrame := some 0 } } = true
      ∧ State.classWaits { trading with link := { trading.link with overrun := some 0xFF } } = true
      ∧ State.classWaits { trading with link := { trading.link with feedLatch := true } } = true
      ∧ State.classWaits { trading with directory := { trading.directory with misses := [⟨1, 7, true⟩, ⟨2, 8, false⟩] } } = true
      ∧ State.classWaits { trading with directory := { trading.directory with misses := [⟨1, 7, true⟩] } } = false
      ∧ (requestKind .halt).isSome = true ∧ requestKind .taking = none
      ∧ Instr.taking ∉ [.unknownKind, .badFrameAdmission, .overrunAdmission, .feedNotice, .missNotice, .resetNAsserted] := by
  decide +kernel

theorem meets_UnknownKindAndStatus :
    (offering 0x3A [1] trading).Offers 0x3A [1] ∧ (0x3A : Byte) ∉ Kind.requests
      ∧ (offering 0x02 [] trading).Offers 0x02 [] ∧ 11 ≤ 11 := by decide +kernel

/-- A part with two staged ticks, a RELEASE in front. -/
def staged : State :=
  { trading with intake := ⟨[⟨3, false, ⟨none, some 4401, none, none, none⟩⟩, ⟨4, true, ⟨some (9, 1), none, none, none, none⟩⟩], .off⟩ }

/-- A RELEASE and a STATUS to be made in parts; a request and a RELEASE at its end that find marks still to come; and the two kinds of
such marks. -/
theorem meets_SplitRequestsMatchWhole :
    (offering 0x19 [] staged).Offers 0x19 [] ∧ 1 < (offering 0x19 [] staged).intake.staging.length
      ∧ (offering 0x02 [] staged).Offers 0x02 [] ∧ 10 < 11
      ∧ (requestKind .halt).isSome = true ∧ (requestKind (.release 1)).isSome = true
      ∧ ({ staged with carrying := .release 2 2 } : State).carrying = .release 2 2 ∧ staged.intake.staging.length ≤ 2
      ∧ slotItems.Nodup ∧ trading.owed = none
      ∧ ({ staged with owed := some (.lookups 511 slotItems) } : State).owed = some (.lookups 511 slotItems)
      ∧ ({ staged with owed := some (.sweep 3 15) } : State).owed = some (.sweep 3 15) := by decide +kernel

/-- Symbols of 1 and of 8 characters. -/
theorem meets_DefineGivesInstrument :
    (offering 0x08 (beBytes 2 (511 : Slot).val ++ beBytes 1 (Format.dec 6).code ++ beBytes 1 1 ++ [0x41]) trading).Offers 0x08
        [0x01, 0xFF, 0x06, 0x01, 0x41]
      ∧ (offering 0x08 (beBytes 2 (0 : Slot).val ++ beBytes 1 Format.f8.code ++ beBytes 1 8 ++ List.replicate 8 0x41) trading).Offers
        0x08 [0x00, 0x00, 0x0A, 0x08, 0x41, 0x41, 0x41, 0x41, 0x41, 0x41, 0x41, 0x41] := by decide +kernel

theorem meets_ClearEmptiesSlot :
    (offering 0x09 (beBytes 2 (3 : Slot).val) trading).Offers 0x09 (beBytes 2 (3 : Slot).val)
      ∧ (∃ i e, (offering 0x09 (beBytes 2 (3 : Slot).val) trading).directory.entries.get i = some e ∧ e.slot = 3)
      ∧ ∀ i e, (offering 0x09 (beBytes 2 (3 : Slot).val) running).directory.entries.get i = some e → e.slot ≠ 3 := by
  refine ⟨by decide +kernel, ⟨0, entryAB, ?_, rfl⟩, fun i e h => ?_⟩
  · exact trading_entries 0
  · exact absurd (h.symm.trans (running_entries i)) (by simp)

/-- HALT, RESUME, SETREF of a defined and of an EMPTY slot. -/
theorem meets_HaltAndResume_SetrefSetsReference :
    (offering 0x0A (beBytes 2 (3 : Slot).val) trading).Offers 0x0A (beBytes 2 (3 : Slot).val)
      ∧ (offering 0x0B (beBytes 2 (511 : Slot).val) trading).Offers 0x0B (beBytes 2 (511 : Slot).val)
      ∧ (trading.records.get 3).state ≠ .empty ∧ (trading.records.get 511).state = .empty
      ∧ (offering 0x0C (beBytes 2 (3 : Slot).val ++ beBytes 1 (flagBit true) ++ beBytes 4 4294967295) trading).Offers 0x0C
        [0, 3, 1, 0xFF, 0xFF, 0xFF, 0xFF] ∧ 4294967295 < 2 ^ 32
      ∧ (offering 0x0C (beBytes 2 (511 : Slot).val ++ beBytes 1 (flagBit false) ++ beBytes 4 0) trading).Offers 0x0C
        [1, 0xFF, 0, 0, 0, 0, 0] := by decide +kernel

theorem meets_OpenDayRollsRecords : (offering 0x0D [] trading).Offers 0x0D [] := by decide +kernel

/-- A tick without LAST; one with it on a record that has a last price, one that has only a reference, one with neither. -/
theorem meets_TickItemsApplied :
    (⟨none, some 1, none, none, none⟩ : TickItems).last = none ∧ (⟨some (7, 0), none, none, none, none⟩ : TickItems).last = some (7, 0)
      ∧ quoteAB.last = some 4411
      ∧ { quoteAB with last := none }.last = none ∧ (none : Option Nat).or { quoteAB with last := none }.reference = some 4400
      ∧ Quote.empty.last = none ∧ (none : Option Nat).or Quote.empty.reference = none := by decide +kernel

/-- Probes of what the part holds, and of what it does not hold, at the ends of their ranges. -/
theorem meets_ProbesAnswer :
    (offering 0x0E (beBytes 2 (511 : Slot).val) trading).Offers 0x0E [1, 0xFF]
      ∧ trading.DirectoryLawful
      ∧ (offering 0x13 (beBytes 1 (5 : Venue).val ++ beBytes 4 (0x1234 : Code).toNat) trading).Offers 0x13 [5, 0, 0, 0x12, 0x34]
      ∧ trading.directory.entries.get 0 = some entryAB ∧ entryAB.code = 0x1234 ∧ entryAB.venue = 5
      ∧ (∀ i e, running.directory.entries.get i = some e → ¬(e.code = 0x1234 ∧ (e.venue = 5 ∨ e.any = true)))
      ∧ (offering 0x23 (beBytes 1 (255 : EntryIx).val) trading).Offers 0x23 [0xFF]
      ∧ (trading.fields.get 255).state = .free ∧ (trading.fields.get 0).state ≠ .free
      ∧ trading.LayoutLawful
      ∧ (offering 0x24 (beBytes 2 (3 : Slot).val ++ beBytes 1 Item.last.code ++ beBytes 1 (2 : BoardIx).val) trading).Offers 0x24
        [0, 3, 1, 2]
      ∧ (trading.fields.get 0).state = .live ∧ (trading.fields.get 0).slot = some 3 ∧ (trading.fields.get 0).item = .last
      ∧ (trading.fields.get 0).placement = .board 2
      ∧ ∀ i, (trading.fields.get i).state = .live → (trading.fields.get i).slot = some 3 → (trading.fields.get i).item = .vol →
        ¬((trading.fields.get i).placement = .board 2 ∨ (trading.fields.get i).placement = .common) := by
  refine ⟨by decide +kernel, trading_directory_lawful, by decide +kernel, trading_entries 0, rfl, rfl, ?_, by decide +kernel,
    by decide +kernel, by decide +kernel, trading_layout_lawful, by decide +kernel, by decide +kernel, by decide +kernel,
    by decide +kernel, by decide +kernel, by decide +kernel⟩
  intro i e h
  exact absurd (h.symm.trans (running_entries i)) (by simp)

/-- INSTALL for an EMPTY slot; of the entry held; of its code for any venue; of a new pair, entry 1 being the lowest free. -/
theorem meets_InstallAddsEntry :
    (∀ e ∈ [⟨5, false, 0x1234, 4⟩, entryAB, ⟨6, true, 0x1234, 3⟩, ⟨31, false, 0x9999, 3⟩],
      (offering 0x10 (beBytes 1 e.venue.val ++ beBytes 1 (flagBit e.any) ++ beBytes 4 e.code.toNat ++ beBytes 2 e.slot.val)
        trading).Offers 0x10
        (beBytes 1 e.venue.val ++ beBytes 1 (flagBit e.any) ++ beBytes 4 e.code.toNat ++ beBytes 2 e.slot.val))
      ∧ (trading.records.get 4).state = .empty ∧ (trading.records.get 3).state ≠ .empty
      ∧ trading.directory.entries.get 0 = some entryAB
      ∧ (∀ i x, trading.directory.entries.get i = some x →
        ¬(x.venue = 31 ∧ x.any = false ∧ x.code = 0x9999) ∧ ¬(x.code = 0x9999 ∧ (false = true ∨ x.any = true))
          ∧ ¬(x.venue = 6 ∧ x.any = true ∧ x.code = 0x1234))
      ∧ trading.directory.entries.get 1 = none ∧ ∀ j : DirIx, j < 1 → trading.directory.entries.get j ≠ none := by
  refine ⟨by decide +kernel, by decide +kernel, by decide +kernel, trading_entries 0, ?_, trading_entries 1, ?_⟩
  · intro i x h
    rw [trading_entries] at h
    split at h <;> cases h
    decide
  · intro j hj
    obtain rfl : j = 0 := Fin.ext (Nat.lt_one_iff.mp hj)
    rw [trading_entries]; simp

/-- A directory without a free entry meets the hypothesis of INSTALL's FULL. -/
theorem meets_InstallAddsEntry_full :
    ∀ i, (Table.replicate 512 (some entryAB)).get i ≠ none := by intro i; simp

theorem meets_RemoveAndFlushEntries :
    trading.DirectoryLawful
      ∧ (offering 0x11 (beBytes 1 (5 : Venue).val ++ beBytes 1 (flagBit false) ++ beBytes 4 (0x1234 : Code).toNat) trading).Offers
        0x11 [5, 0, 0, 0, 0x12, 0x34]
      ∧ trading.directory.entries.get 0 = some entryAB
      ∧ (∀ i e, trading.directory.entries.get i = some e → ¬(e.venue = 5 ∧ e.any = true ∧ e.code = 0x1234))
      ∧ ∀ selector ∈ [0, 31, 0x20, 0xFF], (offering 0x12 (beBytes 1 selector) trading).Offers 0x12 (beBytes 1 selector) := by
  refine ⟨trading_directory_lawful, by decide +kernel, trading_entries 0, ?_, by decide +kernel⟩
  intro i e h
  rw [trading_entries] at h
  split at h <;> cases h
  decide

/-- Requests without fields, and with a payload they may not have. -/
theorem meets_requests_without_fields :
    ∀ kind ∈ ([0x14, 0x1A, 0x1B] : List Byte), (offering kind [] trading).Offers kind []
      ∧ (offering kind [0] trading).Offers kind [0] := by decide +kernel

/-- A tick of LAST and REF at the ends of their ranges. -/
def edgeTick : TickItems := ⟨some (4294967295, 4294967295), none, none, none, some 0⟩

theorem edgeTick_fits : edgeTick.Fits := ⟨by decide, by decide, by decide, by decide, by decide⟩

/-- A tick that misses: its pair in the list, not in it, and not in a full list. -/
theorem meets_TickMissed :
    edgeTick.Fits ∧ edgeTick.mask ≠ 0
      ∧ (offering 0x18 (tickBytes 31 0xFFFFFFFF 0x00 7 edgeTick) trading).Offers 0x18 (tickBytes 31 0xFFFFFFFF 0x00 7 edgeTick)
      ∧ (∀ i e, trading.directory.entries.get i = some e → ¬(e.code = 0xFFFFFFFF ∧ (e.venue = 31 ∨ e.any = true)))
      ∧ (∃ m ∈ [(⟨31, 0xFFFFFFFF, true⟩ : Miss)], m.venue = 31 ∧ m.code = 0xFFFFFFFF)
      ∧ (∀ m ∈ List.replicate 8 (⟨30, 0, true⟩ : Miss), ¬(m.venue = 31 ∧ m.code = 0xFFFFFFFF))
      ∧ trading.directory.misses.length < 8 ∧ 8 ≤ (List.replicate 8 (⟨30, 0, true⟩ : Miss)).length := by
  refine ⟨edgeTick_fits, by decide, by decide +kernel, ?_, by decide, by decide, by decide +kernel, by decide⟩
  intro i e h
  rw [trading_entries] at h
  split at h <;> cases h
  decide

/-- A tick that hits with HOLD clear, and with HOLD set at 31 and at 32 staged entries. -/
theorem meets_TickHits :
    trading.DirectoryLawful ∧ edgeTick.Fits ∧ edgeTick.mask ≠ 0
      ∧ (0x02 : Byte).getLsbD 0 = false ∧ (0x03 : Byte).getLsbD 0 = true
      ∧ (offering 0x18 (tickBytes 5 0x1234 0x02 0 edgeTick) trading).Offers 0x18 (tickBytes 5 0x1234 0x02 0 edgeTick)
      ∧ (offering 0x18 (tickBytes 5 0x1234 0x03 0 edgeTick) trading).Offers 0x18 (tickBytes 5 0x1234 0x03 0 edgeTick)
      ∧ trading.directory.entries.get 0 = some entryAB ∧ entryAB.code = 0x1234 ∧ entryAB.venue = 5
      ∧ (List.replicate 31 (⟨3, false, edgeTick⟩ : Staged)).length < 32
      ∧ 32 ≤ (List.replicate 32 (⟨3, false, edgeTick⟩ : Staged)).length :=
  ⟨trading_directory_lawful, edgeTick_fits, by decide, by decide, by decide, by decide +kernel, by decide +kernel,
    trading_entries 0, rfl, rfl, by decide, by decide⟩

/-- A RELEASE of two entries with no work under way, and between two takings, where the marks of the last are still to come. -/
theorem meets_ReleaseAppliesStaged :
    (offering 0x19 [] staged).Offers 0x19 [] ∧ (offering 0x19 [] staged).intake.staging.length ≤ 2
      ∧ (staged.applied 3 false ⟨none, some 4401, none, none, none⟩).owed = none
      ∧ ((painting [1]).applied 3 false ⟨none, some 4401, none, none, none⟩).owed ≠ none := by decide +kernel

/-- WATCH with a wrong length, and with the values 0, 63 and 255. -/
theorem meets_WatchArms :
    (offering 0x1C [] trading).Offers 0x1C [] ∧ ([] : List Byte).length ≠ 1
      ∧ (∀ x ∈ [(0, 1), (63, 63), (255, 63)], (offering 0x1C (beBytes 1 x.1) trading).Offers 0x1C (beBytes 1 x.1) ∧ x.1 < 256
        ∧ x.2 = max 1 (min x.1 63))
      ∧ trading.intake.watch = .off ∧ (∃ old, FeedWatch.stale 8 = .stale old)
      ∧ (∃ old remaining, FeedWatch.fresh 8 1 = .fresh old remaining) := by
  exact ⟨by decide +kernel, by decide, by decide +kernel, by decide +kernel, ⟨8, rfl⟩, ⟨8, 1, rfl⟩⟩

/-- A STALE watch that a tick reloads, and an OFF one that a HEARTBEAT leaves OFF. -/
theorem meets_FeedWatchLifetime :
    trading.owed = none ∧ FeedWatch.stale 8 ≠ .off ∧ Instr.tick ≠ .resetNAsserted ∧ Instr.tick ≠ .reset ∧ trading.intake.watch = .off
      ∧ Instr.heartbeat ≠ .watch
      ∧ (sees .heartbeat (offering 0x1B [] trading) (fun t => t.intake.watch)) = some .off := by decide +kernel

theorem meets_HeatScanSteps :
    quoteAB = trading.records.get 3 ∧ State.reset.link.phase ≠ .running ∧ trading.link.phase = .running
      ∧ trading.colour.scan.enabled = true ∧ quoteAB.state ≠ .empty ∧ quoteAB.heat = 12 ∧ trading.owed = none
      ∧ State.reset.owed = none ∧ (painting [1]).owed = none ∧ trading.mayTake = false ∧ (painting [1]).mayTake = true := by
  decide +kernel

theorem meets_ColourSettings :
    (offering 0x2A (beBytes 1 255 ++ beBytes 1 (flagBit false) ++ beBytes 1 (7 : Fin 8).val ++ beBytes 1 (3 : Fin 4).val)
        trading).Offers 0x2A [255, 0, 7, 3] ∧ 255 < 256
      ∧ (offering 0x29 (beBytes 1 (3 : SetIx).val ++ beBytes 1 (13 : Fin 14).val ++ beBytes 1 (15 : AttrIx).val) trading).Offers 0x29
        [3, 13, 15]
      ∧ trading.mayTake = false ∧ (painting [1]).mayTake = true
      ∧ (offering 0x28 (beBytes 1 (15 : AttrIx).val ++ beBytes 1 15 ++ beBytes 1 15 ++ beBytes 1 1 ++ beBytes 1 1) trading).Offers
        0x28 [15, 15, 15, 1, 1] := by decide +kernel

/-- Candidates too long before one that fits, and none that fits, at a width of 3. -/
theorem meets_FormatterFitsAndRounds :
    (∀ b ∈ quoteAB.symbol, printable b = true) ∧ (∀ b ∈ textField.text, printable b = true)
      ∧ (∀ x ∈ [decText 2 4411, decText 1 441], 3 < x.length) ∧ (decText 0 44).length ≤ 3 ∧ 0 < 1
      ∧ Quote.empty.state = .empty ∧ quoteAB.state ≠ .empty ∧ quoteAB.last = some 4411 ∧ quoteAB.reference = some 4400
      ∧ percentMagnitude 4411 4400 = 25 := by decide +kernel

/-- A LAST field of a slot and a TEXT field of none, with the watch FRESH and STALE. -/
theorem meets_ColourClassDecided :
    lastField.slot = some 3 ∧ lastField.item = .last ∧ textField.slot = none ∧ textField.item = .text
      ∧ trading.records.get 3 = quoteAB ∧ ¬(∃ period, (FeedWatch.fresh 4 2) = .stale period)
      ∧ (∃ period, (FeedWatch.stale 4) = .stale period)
      ∧ ((Machine.Class.halt, 13) : Machine.Class × Fin 14) ∈ [(.halt, 13)] :=
  ⟨rfl, rfl, rfl, rfl, by decide +kernel, nofun, ⟨4, rfl⟩, by decide⟩

/-- An entry asked for with text, at the right edge of the screen. -/
theorem textField_asked : textField.Asked 0xFFFF [0x48, 0x49] where
  live := rfl
  ranges := ⟨by decide, by decide, by decide, by decide, by decide, by decide, by decide⟩
  slot := by intro h; exact absurd rfl h
  slotField := by decide
  text := by decide
  clean := by decide

/-- Another LAST field of slot 3 for board 2, one over its cells, and one beside it; no FREE entry, and entry 2 the lowest FREE. -/
def newField (item : Item) (column : Nat) : Field :=
  ⟨.live, .board 2, some 3, item, 1, column, 6, 3, false, [], false, Table.replicate 4 false⟩

theorem newField_asked (item : Item) (hi : item ≠ .text) (column : Nat) (h : column + 6 ≤ 96) :
    (newField item column).Asked 3 [] where
  live := rfl
  ranges := ⟨by simp [newField], by simp [newField], h, by simp [newField, hi], by simp [newField], fun _ => rfl, by simp [newField]⟩
  slot := fun _ => rfl
  slotField := by decide
  text := rfl
  clean := ⟨rfl, rfl⟩

theorem meets_MapPlacesField :
    (∀ x ∈ [(Item.last, 40), (.bid, 8), (.bid, 90)],
      (offering 0x20 (mapBytes (newField x.1 x.2) 3 []) trading).Offers 0x20 (mapBytes (newField x.1 x.2) 3 []))
      ∧ (trading.fields.get 0).state = .live ∧ (trading.fields.get 0).item = .last ∧ (trading.fields.get 0).slot = some 3
      ∧ canMeet (.board 2) (trading.fields.get 0).placement = true
      ∧ sharesCell (newField .bid 8) (trading.fields.get 0) = true
      ∧ (∀ i, (trading.fields.get i).state = .live → canMeet (.board 2) (trading.fields.get i).placement = true →
        sharesCell (newField .bid 90) (trading.fields.get i) = false
          ∧ ¬((trading.fields.get i).slot = some 3 ∧ (trading.fields.get i).item = .bid))
      ∧ (trading.fields.get 2).state = .free ∧ (∀ j : EntryIx, j < 2 → (trading.fields.get j).state ≠ .free)
      ∧ ∀ i, ((Table.replicate 256 lastField).get i).state ≠ .free := by
  refine ⟨by decide +kernel, by decide +kernel, by decide +kernel, by decide +kernel, by decide +kernel, by decide +kernel, ?_,
    by decide +kernel, by decide +kernel, ?_⟩
  · intro i hi _
    rcases trading_live i hi with rfl | rfl <;> decide +kernel
  · intro i; simp [lastField]

theorem meets_UnmapRemovesField :
    (offering 0x21 (beBytes 1 (0 : EntryIx).val) trading).Offers 0x21 [0] ∧ (trading.fields.get 255).state ≠ .live
      ∧ (trading.fields.get 0).state = .live ∧ appears trading.bands (trading.fields.get 0) = true
      ∧ appears running.bands lastField = false := by decide +kernel

theorem meets_FlushFreesGroup :
    ∀ selector ∈ [0, 15, 0x10, 0xFF], (offering 0x22 (beBytes 1 selector) trading).Offers 0x22 (beBytes 1 selector) := by
  decide +kernel

theorem meets_SettextReplacesText :
    (offering 0x25 (beBytes 1 (1 : EntryIx).val ++ beBytes 1 16 ++ List.replicate 16 0x41) trading).Offers 0x25
        (0x01 :: 0x10 :: List.replicate 16 0x41)
      ∧ (trading.fields.get 1).state = .live ∧ (trading.fields.get 1).item = .text
      ∧ ¬((trading.fields.get 0).state = .live ∧ (trading.fields.get 0).item = .text) := by
  decide +kernel

theorem meets_ClampedSettings :
    ∀ kind ∈ ([0x32, 0x39, 0x2B] : List Byte), ∀ value ∈ [0, 1, 2, 4, 30, 64, 255],
      (offering kind (beBytes 1 value) trading).Offers kind (beBytes 1 value) ∧ value < 256 := by decide +kernel

/-- Band 0 over a row of band 1; the tape band at size 1; a band freed, and bands kept showing a board, NONE and TAPE. -/
theorem meets_BandSetsGeometry :
    (∀ x ∈ [((0 : BandIx), 5, 1, (0 : Fin 4)), (2, 30, 1, 1), (1, 35, 0, 0), (1, 0, 30, 3), (0, 35, 1, 0), (2, 35, 1, 2)],
      (offering 0x30 (beBytes 1 x.1.val ++ beBytes 1 x.2.1 ++ beBytes 1 x.2.2.1 ++ beBytes 1 x.2.2.2.val ++ beBytes 1 (7 : AttrIx).val)
        trading).Offers 0x30
        (beBytes 1 x.1.val ++ beBytes 1 x.2.1 ++ beBytes 1 x.2.2.1 ++ beBytes 1 x.2.2.2.val ++ beBytes 1 (7 : AttrIx).val)
      ∧ x.2.1 ≤ 35 ∧ x.2.2.1 ≤ 36 ∧ x.2.1 + x.2.2.1 ≤ 36)
      ∧ holdsRow 5 (trading.bands.get 1) = true
      ∧ (∀ j, j ≠ (0 : BandIx) → holdsRow 35 (trading.bands.get j) = false)
      ∧ (trading.bands.get 2).shows = .tape ∧ (trading.bands.get 1).shows = .board 2 ∧ (trading.bands.get 0).shows = .nothing := by
  decide +kernel

theorem meets_ShowSetsTarget :
    (∀ x ∈ [((0 : BandIx), 0x11), (1, 0), (1, 15), (1, 0x10), (2, 0x11)],
      (offering 0x31 (beBytes 1 x.1.val ++ beBytes 1 x.2) trading).Offers 0x31 (beBytes 1 x.1.val ++ beBytes 1 x.2))
      ∧ (trading.bands.get 0).height = 0 ∧ 0 < (trading.bands.get 1).height ∧ 0 < (trading.bands.get 2).height
      ∧ (trading.bands.get 2).size ≠ 1 ∧ (trading.bands.get 2).size ≠ 3
      ∧ (∀ j, j ≠ (2 : BandIx) → (trading.bands.get j).shows ≠ .tape) ∧ (trading.bands.get 1).shows ≠ .tape
      ∧ (∃ j, j ≠ (1 : BandIx) ∧ (trading.bands.get j).shows = .tape) := by decide +kernel

theorem meets_FrameStartAndReading :
    State.reset.workDone = true ∧ State.reset.link.phase ≠ .running ∧ trading.workDone = true
      ∧ trading.link.phase = .running
      ∧ (painting [0]).workDone = false ∧ State.reset.owed = none ∧ trading.owed = none ∧ (painting [0]).owed = none := by
  decide +kernel

/-- The tape with 15, 47 and 48 items, at offset 9 and at the ends of the base speed, with a full ring. -/
theorem meets_TapeFrameWork :
    ∀ n ∈ [15, 47, 48], ∀ speed ∈ [1, 4],
      let t : Tape := ⟨List.replicate n [0x41, 0x20, 0x20, 0x20], List.replicate 128 0x20, 9, speed, true⟩
      t.offset ≤ 9 ∧ 1 ≤ t.baseSpeed ∧ t.baseSpeed ≤ 4 ∧ t.ring.length ≤ 128 := by decide +kernel

/-- A dot at each corner of the active picture; rows of the board band, the tape band and no band. -/
theorem meets_PictureDrawn :
    624 ≤ 624 ∧ 1199 ≤ 1199 ∧ 48 ≤ 48 ∧ 49 = 49 + 16 * (0 : Fin 36).val + 0 ∧ 624 = 49 + 16 * (35 : Fin 36).val + 15
      ∧ 959 = 10 * (95 : Fin 96).val + 9 ∧ State.reset.raster.reading = none
      ∧ (∀ k, holdsRow (0 : Fin 36).val (trading.bands.get k) = false)
      ∧ holdsRow (5 : Fin 36).val (trading.bands.get 1) = true
      ∧ (∀ j, j ≠ (1 : BandIx) → holdsRow (5 : Fin 36).val (trading.bands.get j) = false)
      ∧ (trading.bands.get 1).shows = .board 2 ∧ (trading.bands.get 1).curtain = .opened
      ∧ holdsRow (31 : Fin 36).val (trading.bands.get 2) = true
      ∧ (∀ j, j ≠ (2 : BandIx) → holdsRow (31 : Fin 36).val (trading.bands.get j) = false)
      ∧ (trading.bands.get 2).shows = .tape ∧ 31 < (trading.bands.get 2).top + heightMul (trading.bands.get 2).size := by
  decide +kernel

/-- The two ends of a tape window of 97 characters, a ring of one, and the edge of the late mark; a blinking attribute hidden. -/
theorem meets_PictureDrawn_cells :
    (0 + 0) / 10 < [(0x41 : Byte)].length ∧ [(0x41 : Byte)][(0 + 0) / 10]? = some 0x41
      ∧ [(0x41 : Byte)].length ≤ (959 + 9) / 10 ∧ (959 + 9) / 10 = 96 ∧ 9 < 10 ∧ 10 ≤ 10
      ∧ (⟨0x41, 3, .bottomRight⟩ : Cell).part = .bottomRight ∧ (⟨1, 2, true, false⟩ : Attr).blink = true
      ∧ (⟨1, 2, false, true⟩ : Attr).blink = false ∧ (0x20 : Byte).toNat = 0x20 ∧ (0x7F : Byte).toNat = 0x7F := by decide

/-- The first step of the work with band 1 owing its clear, looked at, or with none pending; the third with a band to open. -/
theorem meets_BandClearAndCurtainRelease :
    ({ boardBand with clearPending := true } : Band).clearPending = true ∧ boardBand.clearPending = false
      ∧ (Look.owed ≠ .looked ∧ Look.mayLook ≠ .looked)
      ∧ ({ boardBand with curtain := .curtained } : Band).curtain = .curtained ∧ boardBand.count = 0
      ∧ boardBand.curtain = .opened ∧ 0 < ({ boardBand with count := 1 } : Band).count ∧ trading.owed = none := by decide +kernel

/-- Bands that owe a clear and an opening with and without cause, the list empty and not, the budget counted and not. -/
theorem meets_PainterWorkFollows :
    PaintWork.update trading.bands [] (.clearing ⟨[.mayLook, .owed, .mayLook, .looked], rfl⟩ none) =
        .clearing ⟨[.mayLook, .mayLook, .mayLook, .looked], rfl⟩ (some (Table.replicate 4 .mayLook))
      ∧ PaintWork.update trading.bands [0] (.clearing (Table.replicate 4 .mayLook) none) =
        .clearing (Table.replicate 4 .mayLook) none
      ∧ PaintWork.update trading.bands [0] (.clearing (Table.replicate 4 .mayLook) (some (Table.replicate 4 .owed))) =
        .clearing (Table.replicate 4 .mayLook) (some (Table.replicate 4 .mayLook))
      ∧ PaintWork.update trading.bands [0] (.taking 32 31) = .taking 32 31
      ∧ PaintWork.update trading.bands [0] (.taking 32 32) = .releasing (Table.replicate 4 .mayLook)
      ∧ PaintWork.update (trading.bands.set 1 { boardBand with curtain := .curtained }) [] (.taking 32 1) =
        .releasing ⟨[.mayLook, .owed, .mayLook, .mayLook], rfl⟩
      ∧ PaintWork.update (trading.bands.set 1 { boardBand with curtain := .curtained, count := 1 }) []
          (.releasing ⟨[.mayLook, .owed, .mayLook, .mayLook], rfl⟩) = .releasing (Table.replicate 4 .mayLook)
      ∧ (painting [0]).mayTake = true ∧ ({ painting [0] with painter := { trading.painter with dirty := [0] } } : State).mayTake = false
      ∧ State.mayTake { painting [0] with painter := { trading.painter with
          dirty := [0], work := .clearing (Table.replicate 4 .owed) none } } = true
      ∧ State.mayTake { trading with painter := { trading.painter with
          work := .clearing (Table.replicate 4 .owed) none } } = false := by
  decide +kernel

/-- A LIVE entry in a band, one in none, and an ERASING entry; a band that owes no clear; the budget counted. -/
theorem meets_TakingFromDirtyList :
    31 < 32 ∧ lastField.state = .live ∧ appears trading.bands lastField = true ∧ appears running.bands lastField = false
      ∧ ({ lastField with state := .erasing } : Field).state = .erasing ∧ (trading.bands.get 1).clearPending = false
      ∧ 32 ≤ 32 := by decide +kernel

/-- The four quarters of a character at logical row 1 and column 2 of a double band on rows 2..5, and a cell outside. -/
theorem meets_FieldExpandsOntoCells :
    (∀ pr ∈ [(4 : Fin 36), 5], ∀ pc ∈ [(4 : Fin 96), 5],
      2 ≤ pr.val ∧ pr.val < 2 + 4 ∧ (pr.val - 2) / heightMul 3 = 1 ∧ pc.val / widthMul 3 = 2 + 0) ∧ (6 : Fin 96).val / widthMul 3 ≠ 2 := by
  decide

/-- A frame start with the reset fill owed over a cell that is not blank. -/
theorem meets_CellStoreHoldsStill :
    sees .frameStart { trading with painter := { trading.painter with
        cells := trading.painter.cells.write (0, 0, ⟨0x41, 1, .whole⟩) } } (fun t => t.painter.cells.at 0 0) =
      some ⟨0x20, 0, .whole⟩ ∧ trading.painter.fillOwed = true := by decide +kernel

theorem quoteAB_lawful : quoteAB.Lawful :=
  ⟨by decide, by decide, by decide, by decide, by decide, by decide, by decide, by decide, by decide, by decide, by decide⟩

/-- Texts of 1 and 32 characters with and without a tape band, at 63 and 64 items; a tick with and without a print. -/
theorem meets_TapeTakesItems :
    (offering 0x38 (beBytes 1 1 ++ [0x41]) trading).Offers 0x38 [1, 0x41]
      ∧ (offering 0x38 (beBytes 1 32 ++ List.replicate 32 0x41) trading).Offers 0x38 (0x20 :: List.replicate 32 0x41)
      ∧ (∃ k, (trading.bands.get k).shows = .tape) ∧ (∀ k, (running.bands.get k).shows ≠ .tape)
      ∧ (List.replicate 63 ([0x41] : List Byte)).length < 64 ∧ 64 ≤ (List.replicate 64 ([0x41] : List Byte)).length
      ∧ edgeTick.last = some (4294967295, 4294967295) ∧ (⟨none, none, none, some 1, none⟩ : TickItems).last = none
      ∧ quoteAB.state ≠ .empty := by decide +kernel

/-! ### Lawful states with a command waiting -/

theorem meets_QueuesStayLawful : trading.QueuesLawful ∧ (nextOf (step { trading with pending := [.frameStart] })).isSome = true :=
  ⟨⟨by decide +kernel, by decide +kernel, fun _ => by decide +kernel, by simp [trading, running, State.reset], by decide +kernel,
    by decide +kernel, fun h => absurd rfl h⟩, by decide +kernel⟩

theorem meets_RecordsStayLawful : trading.RecordsLawful where
  records := by
    intro slot
    rw [trading_records]
    split
    · exact quoteAB_lawful
    · exact ⟨by decide, by decide, by decide, by decide, by decide, by decide, by decide, by decide, by decide,
        by decide, by decide⟩
  staged := by simp [trading, running, State.reset]
  flash := by decide +kernel

theorem meets_DirectoryStaysLawful : trading.DirectoryLawful := trading_directory_lawful

theorem meets_DirtyListStaysLawful : trading.DirtyLawful where
  nodup := by decide +kernel
  marks := by decide +kernel
  erasing := by decide +kernel
  free := by decide +kernel
  taking _ _ h := absurd h (by rw [show trading.painter.work = .idle from rfl]; nofun)

theorem meets_CurtainsStayLawful : trading.CurtainsLawful where
  marks := by decide +kernel
  counts := by decide +kernel
  curtained := by decide +kernel
  others := by decide +kernel
  unused := by decide +kernel

theorem meets_LayoutStaysLawful_bands : trading.BandsLawful where
  onScreen := by decide +kernel
  apart := by
    have h : ∀ j k : BandIx, j ≠ k → (trading.bands.get j).height = 0 ∨ (trading.bands.get k).height = 0
        ∨ (trading.bands.get j).top + (trading.bands.get j).height ≤ (trading.bands.get k).top
        ∨ (trading.bands.get k).top + (trading.bands.get k).height ≤ (trading.bands.get j).top := by decide +kernel
    intro j k row hjk hj
    have := h j k hjk
    simp only [holdsRow, Bool.and_eq_true, decide_eq_true_eq] at hj
    simp only [holdsRow, Bool.and_eq_false_iff, decide_eq_false_iff_not]
    omega
  boards := by decide +kernel
  oneTape := by decide +kernel
  tapeSize := by decide +kernel

theorem meets_LayoutStaysLawful_fields : trading.LayoutLawful := trading_layout_lawful

theorem meets_TapeStaysLawful : trading.TapeLawful :=
  ⟨by decide +kernel, by decide +kernel, by decide +kernel, by decide +kernel, by decide +kernel⟩

theorem meets_SettingsStayLawful : trading.SettingsLawful :=
  ⟨by rw [show trading.intake.watch = FeedWatch.off from rfl]; trivial, by decide +kernel, by decide +kernel,
    by decide +kernel, by decide +kernel⟩

end Sys2Proof.Tests
end

section
/-! SUPPORT. What a step can do to the quote records, the directory, the Staging List and the flash heat, said once: each command
makes a chain of the elementary changes listed in Market.Change, and everything else it does leaves these four parts alone. -/

namespace Sys2Proof.Machine

open Sys2Proof

/-! ### The case distinction of a request's step (R173) -/

/-- The step of a request leaves the frame where it is, refuses it, or carries it out. -/
theorem request_cases {α : Type} {kind : Byte} {parse : List Byte → Except Reason α} {work : α → State → State} {s t : State}
    (h : request kind parse work s = .next t) :
    t = s.ready ∨ (∃ reason, t = s.ready.takeHead.reject kind reason)
      ∨ ∃ p a, parse p = .ok a ∧ t = work a s.ready.takeHead := by
  obtain rfl : s.ready.serve kind parse work = t := Host.Outcome.next.inj h
  unfold State.serve
  split
  · exact .inl rfl
  · split
    · split
      · exact .inr (.inl ⟨_, rfl⟩)
      · rename_i a ha
        exact .inr (.inr ⟨_, a, ha, rfl⟩)
    · exact .inl rfl

/-! ### The four parts -/

/-- The parts of the state that ticks, the requests of the Instrument Table and those of the Symbol Directory work on. -/
structure Market where
  records : Table 512 Quote
  directory : Directory
  staging : List Staged
  flash : Nat

/-- The four parts of a state. -/
def State.market (s : State) : Market := ⟨s.records, s.directory, s.intake.staging, s.colour.flashHeat⟩

@[simp] theorem State.market_records (s : State) : s.market.records = s.records := rfl
@[simp] theorem State.market_directory (s : State) : s.market.directory = s.directory := rfl
@[simp] theorem State.market_staging (s : State) : s.market.staging = s.intake.staging := rfl
@[simp] theorem State.market_flash (s : State) : s.market.flash = s.colour.flashHeat := rfl

/-- A walk whose every step leaves the four parts alone leaves them alone. -/
theorem State.foldl_market {α : Type} {f : State → α → State} (h : ∀ s a, (f s a).market = s.market) (l : List α) (s : State) :
    (l.foldl f s).market = s.market := by
  induction l generalizing s with
  | nil => rfl
  | cons a l ih => rw [List.foldl_cons, ih, h]

/-! ### Answers, marks and the Feed Watch leave the four parts alone -/

@[simp] theorem State.takeHead_market (s : State) : s.takeHead.market = s.market := rfl
@[simp] theorem State.place_market (r : Record) (s : State) : (s.place r).market = s.market := rfl
@[simp] theorem State.reply_market (r : Record) (s : State) : (s.reply r).market = s.market := rfl
@[simp] theorem State.ack_market (kind : Byte) (value : Nat) (s : State) : (s.ack kind value).market = s.market := rfl
@[simp] theorem State.reject_market (kind : Byte) (reason : Reason) (s : State) : (s.reject kind reason).market = s.market := rfl
@[simp] theorem State.setLink_market (l : Link) (s : State) : (s.setLink l).market = s.market := rfl
@[simp] theorem State.setWatch_market (w : FeedWatch) (s : State) : (s.setWatch w).market = s.market := rfl
@[simp] theorem State.setScan_market (scan : HeatScan) (s : State) : (s.setScan scan).market = s.market := rfl
@[simp] theorem State.setWork_market (w : PaintWork) (s : State) : (s.setWork w).market = s.market := rfl
@[simp] theorem State.updateWork_market (s : State) : s.updateWork.market = s.market := rfl
@[simp] theorem State.setCells_market (c : CellStore) (s : State) : (s.setCells c).market = s.market := rfl
@[simp] theorem State.modifyBand_market (k : BandIx) (f : Band → Band) (s : State) : (s.modifyBand k f).market = s.market := rfl
@[simp] theorem State.queued_market (new : List EntryIx) (s : State) : (s.queued new).market = s.market := rfl

@[simp] theorem State.setRecord_market (slot : Slot) (q : Quote) (s : State) :
    (s.setRecord slot q).market = { s.market with records := s.records.set slot q } := rfl

@[simp] theorem State.placed_market (s : State) : s.placed.market = s.market := by
  unfold State.placed
  split <;> rfl

@[simp] theorem State.admissionMade_market (s : State) : s.admissionMade.market = s.market := by
  unfold State.admissionMade
  split
  · rfl
  · exact s.placed_market

@[simp] theorem State.markEntry_market (s : State) (i : EntryIx) : (s.markEntry i).market = s.market := by
  rw [State.markEntry_eq, State.queued_market]

@[simp] theorem State.markWhere_market (p : Field → Bool) (s : State) : (s.markWhere p).market = s.market := by
  rw [State.markWhere_eq, State.queued_market]

@[simp] theorem State.markItems_market (slot : Slot) (items : List Item) (s : State) :
    (s.markItems slot items).market = s.market := by
  obtain ⟨new, h⟩ := State.markItems_queued slot items s
  rw [h, State.queued_market]

@[simp] theorem State.carryOut_market (m : Marks) (s : State) : (s.carryOut m).market = s.market := by
  cases m with
  | lookups slot items => exact s.markItems_market slot items
  | sweep set attr => exact s.markWhere_market (inPalette set)

@[simp] theorem State.handOver_market (m : Marks) (s : State) : (s.handOver m).market = s.market := by
  unfold State.handOver
  split
  · rfl
  · exact s.carryOut_market m

@[simp] theorem State.settled_market (s : State) : s.settled.market = s.market := by
  unfold State.settled
  split
  · exact State.carryOut_market _ _
  · rfl

@[simp] theorem State.ready_market (s : State) : s.ready.market = s.market := by
  rw [State.ready, State.placed_market, State.settled_market]

@[simp] theorem State.feedChanged_market (s : State) : s.feedChanged.market = s.market := by
  rw [State.feedChanged_eq]
  rfl

@[simp] theorem State.reloadFeed_market (s : State) : s.reloadFeed.market = s.market := by
  unfold State.reloadFeed
  split <;> simp

@[simp] theorem State.expire_market (s : State) : s.expire.market = s.market := by
  unfold State.expire
  split <;> simp

@[simp] theorem State.offerPrint_market (slot : Slot) (tape : Bool) (items : TickItems) (s : State) :
    (s.offerPrint slot tape items).market = s.market := by
  unfold State.offerPrint
  split
  · split <;> rfl
  · rfl

/-! ### The Field Map and the Band Table leave the four parts alone -/

@[simp] theorem State.setUnpainted_market (k : BandIx) (s : State) (i : EntryIx) : (s.setUnpainted k i).market = s.market := by
  unfold State.setUnpainted
  split <;> rfl

@[simp] theorem State.clearUnpainted_market (i : EntryIx) (s : State) (k : BandIx) :
    (s.clearUnpainted i k).market = s.market := by
  unfold State.clearUnpainted
  split <;> rfl

@[simp] theorem State.clearMarksOf_market (i : EntryIx) (s : State) : (s.clearMarksOf i).market = s.market :=
  State.foldl_market (State.clearUnpainted_market i) allBands s

@[simp] theorem State.clearMarksFor_market (k : BandIx) (s : State) : (s.clearMarksFor k).market = s.market := rfl

@[simp] theorem State.sweepBand_market (k : BandIx) (s : State) : (s.sweepBand k).market = s.market := by
  rw [State.sweepBand_eq]
  rfl

@[simp] theorem State.refreshBand_market (k : BandIx) (s : State) : (s.refreshBand k).market = s.market := by
  rw [State.refreshBand, State.sweepBand_market, State.modifyBand_market]

@[simp] theorem State.freeEntry_market (s : State) (i : EntryIx) : (s.freeEntry i).market = s.market := by
  rw [State.freeEntry_eq]
  rfl

@[simp] theorem State.eraseEntry_market (i : EntryIx) (s : State) : (s.eraseEntry i).market = s.market := by
  rw [State.eraseEntry, State.clearMarksOf_eq]
  rfl

@[simp] theorem State.holdCurtain_market (i : EntryIx) (s : State) (k : BandIx) : (s.holdCurtain i k).market = s.market := by
  unfold State.holdCurtain
  split <;> simp

@[simp] theorem State.placeEntry_market (i : EntryIx) (f : Field) (s : State) : (s.placeEntry i f).market = s.market := by
  rw [State.placeEntry, State.markEntry_market, State.foldl_market (State.holdCurtain_market i)]
  rfl

@[simp] theorem State.leaveTape_market (shown : Shows) (s : State) : (s.leaveTape shown).market = s.market := by
  unfold State.leaveTape
  split <;> rfl

@[simp] theorem State.settleBand_market (k : BandIx) (height : Nat) (shown : Shows) (s : State) :
    (s.settleBand k height shown).market = s.market := by
  unfold State.settleBand State.freeBand
  split
  · simp
  · split <;> simp

@[simp] theorem State.stealFrom_market (k : BandIx) (target : Shows) (s : State) (j : BandIx) :
    (s.stealFrom k target j).market = s.market := by
  unfold State.stealFrom
  split <;> simp

@[simp] theorem State.stealBoard_market (k : BandIx) (target : Shows) (s : State) :
    (s.stealBoard k target).market = s.market := by
  unfold State.stealBoard
  split
  · exact State.foldl_market (State.stealFrom_market k _) allBands s
  · rfl
  · rfl

@[simp] theorem State.leaveBoard_market (k : BandIx) (s : State) : (s.leaveBoard k).market = s.market := by
  unfold State.leaveBoard
  split <;> simp

@[simp] theorem State.takeTarget_market (k : BandIx) (target : Shows) (s : State) :
    (s.takeTarget k target).market = s.market := by
  unfold State.takeTarget
  split
  · simp
  · simp
  · split <;> simp

theorem bandWork_market (r : BandReq) (s : State) : (bandWork r s).market = s.market := by
  unfold bandWork
  split
  · simp
  · split <;> simp

theorem showWork_market (r : BandIx × Shows) (s : State) : (showWork r s).market = s.market := by
  unfold showWork
  split
  · simp
  · split <;> simp

theorem mapWork_market (f : Field) (s : State) : (mapWork f s).market = s.market := by
  unfold mapWork
  split
  · simp
  · split
    · simp
    · split <;> simp

theorem unmapWork_market (i : EntryIx) (s : State) : (unmapWork i s).market = s.market := by
  unfold unmapWork
  split
  · split <;> simp
  · simp

theorem mflushWork_market (g : FieldGroup) (s : State) : (mflushWork g s).market = s.market := by
  simp only [mflushWork, State.ack_market, State.updateWork_market]
  rw [State.foldl_market (fun t k => t.refreshBand_market k), State.foldl_market State.freeEntry_market]

theorem settextWork_market (r : EntryIx × List Byte) (s : State) : (settextWork r s).market = s.market := by
  unfold settextWork
  split
  · simp only [State.ack_market, State.markEntry_market]
    rfl
  · simp

/-! ### The Painter, the Raster and the Tape Unit leave the four parts alone -/

@[simp] theorem State.clearStep_market (k : BandIx) (s : State) : (s.clearStep k).market = s.market := by
  have hclear : (s.clearBand k).market = s.market := by
    unfold State.clearBand
    dsimp only
    split <;> simp
  unfold State.clearStep
  split
  · split <;> simp [hclear]
  · rfl
  · rfl
  · rfl

@[simp] theorem State.writeInto_market (i : EntryIx) (chars : List (Byte × AttrIx)) (s : State) (k : BandIx) :
    (s.writeInto i chars k).market = s.market := by
  unfold State.writeInto
  dsimp only
  split <;> simp

@[simp] theorem State.eraseFrom_market (f : Field) (s : State) (k : BandIx) : (s.eraseFrom f k).market = s.market := by
  unfold State.eraseFrom
  split <;> simp

@[simp] theorem State.makeFree_market (i : EntryIx) (s : State) : (s.makeFree i).market = s.market := rfl

@[simp] theorem State.dealWith_market (i : EntryIx) (s : State) : (s.dealWith i).1.market = s.market := by
  unfold State.dealWith
  dsimp only
  split
  · exact State.foldl_market (State.writeInto_market i _) allBands s
  · rfl
  · exact State.foldl_market (State.eraseFrom_market _) allBands s
  · rfl
  · rfl

@[simp] theorem State.takeOne_market (budget counted : Nat) (s : State) : (s.takeOne budget counted).market = s.market := by
  unfold State.takeOne State.takeEntry
  split
  · rfl
  · split
    · rfl
    · simp only [State.updateWork_market, State.setWork_market, State.dealWith_market]
      rfl

@[simp] theorem State.releaseStep_market (k : BandIx) (s : State) : (s.releaseStep k).market = s.market := by
  unfold State.releaseStep
  split
  · split <;> simp
  · rfl

@[simp] theorem State.startFrame_market (s : State) : s.startFrame.market = s.market := by
  unfold State.startFrame
  split
  · split <;> rfl
  · rfl

@[simp] theorem State.readFrame_market (s : State) : s.readFrame.market = s.market := by
  unfold State.readFrame
  split <;> rfl

theorem tapetextWork_market (text : List Byte) (s : State) : (tapetextWork text s).market = s.market := by
  unfold tapetextWork
  split
  · rfl
  · split <;> rfl

theorem setpalWork_market (r : SetIx × Fin 14 × AttrIx) (s : State) : (setpalWork r s).market = s.market := by
  rw [setpalWork, State.handOver_market]
  rfl

theorem watchWork_market (period : Nat) (s : State) : (watchWork period s).market = s.market := by
  unfold watchWork
  split <;> simp

theorem continueStatus_market (n done : Nat) (r : StatusReply) (s : State) : (continueStatus n done r s).market = s.market := by
  unfold continueStatus
  dsimp only
  split <;> rfl

end Sys2Proof.Machine
end

section
/-! SUPPORT. The elementary changes of the quote records, the directory, the Staging List and the flash heat, and the theorem
that every step makes a chain of them. -/

namespace Sys2Proof.Machine

open Sys2Proof

/-! ### The ranges that the checks of the requests leave -/

theorem printable_sanitise (b : Byte) : printable (sanitise b) = true := by
  unfold sanitise
  split
  · assumption
  · rfl

/-- A DEFINE that passes its checks has a symbol of 1..8 printable characters (R8). -/
theorem parseDefine_symbol {p : List Byte} {r : DefineReq} (h : parseDefine p = .ok r) :
    1 ≤ r.symbol.length ∧ r.symbol.length ≤ 8 ∧ ∀ b ∈ r.symbol, printable b = true := by
  unfold parseDefine at h
  split at h
  · cases h
  · rename_i hlen
    split at h
    · split at h
      · rename_i hsym
        cases h
        have hl : ((p.drop 4).map sanitise).length = fieldAt p 3 1 := by
          rw [List.length_map, List.length_drop]
          omega
        refine ⟨hl ▸ hsym.1, hl ▸ hsym.2, ?_⟩
        intro b hb
        obtain ⟨c, -, rfl⟩ := List.mem_map.mp hb
        exact printable_sanitise c
      · cases h
    · cases h

theorem saturatePrice_le (v : Nat) : saturatePrice v ≤ 999999999 := min_le_right _ _

/-- A SETREF that passes its checks sets a price in range, or none (R11). -/
theorem parseSetref_price {p : List Byte} {r : Slot × Option Nat} (h : parseSetref p = .ok r) :
    ∀ v ∈ r.2, v ≤ 999999999 := by
  unfold parseSetref at h
  split at h
  · cases h
  · split at h
    · cases h
      simp [saturatePrice_le]
    · cases h
      simp
    · cases h

/-- The items of a TICK, as Quote Intake takes them, lie in their ranges (R40). -/
theorem tickItems_lawful (p : List Byte) (mask : Nat) : (tickItems p mask).Lawful where
  last := by
    intro x hx
    obtain ⟨v, -, rfl⟩ := Option.mem_map.mp hx
    have := fieldAt_lt p 11 4
    exact ⟨saturatePrice_le v, by dsimp only; omega⟩
  prices := by
    have hsat : ∀ o : Option Nat, ∀ v ∈ o.map saturatePrice, v ≤ 999999999 := by
      intro o v hv
      obtain ⟨w, -, rfl⟩ := Option.mem_map.mp hv
      exact saturatePrice_le w
    intro o ho
    simp only [tickItems, List.mem_cons, List.not_mem_nil, or_false] at ho
    rcases ho with rfl | rfl | rfl <;> exact hsat _
  vol := by
    intro v hv
    simp only [tickItems, tickValue] at hv
    split at hv
    · cases hv
      have := fieldAt_lt p (7 + valuesBefore mask 3) 4
      omega
    · cases hv

theorem parseTick_items {p : List Byte} {r : TickReq} (h : parseTick p = .ok r) : r.items.Lawful := by
  unfold parseTick at h
  split at h
  · cases h
  · split at h
    · cases h
    · split at h
      · cases h
      · cases h
        exact tickItems_lawful _ _

/-- A HEATCFG that passes its checks has its flash heat clamped into 1..15 (R107). -/
theorem parseHeatcfg_flash {p : List Byte} {r : HeatReq} (h : parseHeatcfg p = .ok r) :
    1 ≤ r.flashHeat ∧ r.flashHeat ≤ 15 := by
  unfold parseHeatcfg at h
  split at h
  · cases h
  · split at h
    · cases h
      simp [clamp]
    · cases h

/-! ### The elementary changes -/

/-- One change of the four parts, with what the part has checked before it makes it. -/
inductive Market.Change : Market → Market → Prop where
  /-- Every block takes its reset values (R179). -/
  | reset (m : Market) : Change m State.reset.market
  /-- DEFINE (R8). -/
  | defined (m : Market) (slot : Slot) (format : Format) (symbol : List Byte) (hmin : 1 ≤ symbol.length)
      (hmax : symbol.length ≤ 8) (htext : ∀ b ∈ symbol, printable b = true) :
      Change m { m with records := m.records.set slot (definedQuote format symbol) }
  /-- CLEAR of a slot that no valid entry names (R9). -/
  | cleared (m : Market) (slot : Slot) (h : m.directory.names slot = false) :
      Change m { m with records := m.records.set slot { Quote.empty with format := (m.records.get slot).format } }
  /-- HALT or RESUME of a defined record (R10). -/
  | traded (m : Market) (slot : Slot) (state : RecState) (h : (m.records.get slot).state ≠ .empty) (hs : state ≠ .empty) :
      Change m { m with records := m.records.set slot { m.records.get slot with state := state } }
  /-- SETREF of a defined record (R11). -/
  | referenced (m : Market) (slot : Slot) (price : Option Nat) (hp : ∀ v ∈ price, v ≤ 999999999) :
      Change m { m with records := m.records.set slot { m.records.get slot with reference := price } }
  /-- OPEN_DAY (R12). -/
  | rolled (m : Market) : Change m { m with records := m.records.map rollQuote }
  /-- The application of a tick, just received or staged (R14). -/
  | ticked (m : Market) (slot : Slot) (it : TickItems) (h : it.Lawful ∨ ∃ e ∈ m.staging, e.items = it) :
      Change m { m with records := m.records.set slot (applyItems m.flash it (m.records.get slot)) }
  /-- The Heat Scan's visit to a defined record with heat (R106). -/
  | cooled (m : Market) (slot : Slot) :
      Change m { m with
        records := m.records.set slot { m.records.get slot with heat := (m.records.get slot).heat - 1 } }
  /-- A tick joins the Staging List (R46). -/
  | staged (m : Market) (e : Staged) (h : e.items.Lawful) : Change m { m with staging := m.staging ++ [e] }
  /-- The Staging List is emptied (R48, R49). -/
  | unstaged (m : Market) : Change m { m with staging := [] }
  /-- HEATCFG sets the flash heat (R107). -/
  | heated (m : Market) (flash : Nat) (h : 1 ≤ flash ∧ flash ≤ 15) : Change m { m with flash := flash }
  /-- INSTALL takes an entry for a defined slot, of another identity than every entry and in conflict with none (R25, R26). -/
  | installed (m : Market) (i : DirIx) (e : DirEntry) (hslot : (m.records.get e.slot).state ≠ .empty)
      (hid : ∀ j x, m.directory.entries.get j = some x → e.sameIdentity x = false ∧ e.conflicts x = false) :
      Change m { m with directory := { m.directory with
        entries := m.directory.entries.set i (some e)
        misses := m.directory.misses.filter (fun x => !(e.covers x.venue x.code)) } }
  /-- REMOVE and DFLUSH free entries (R27, R28). -/
  | freed (m : Market) (entries : Table 512 (Option DirEntry))
      (h : ∀ i, entries.get i = m.directory.entries.get i ∨ entries.get i = none) :
      Change m { m with directory := { m.directory with entries := entries } }
  /-- A tick whose lookup has missed offers its pair to the Miss List (R32). -/
  | missed (m : Market) (venue : Venue) (code : Code) (h : m.directory.find venue code = none) :
      Change m { m with directory := m.directory.offerMiss venue code }
  /-- MPURGE (R36). -/
  | purged (m : Market) : Change m { m with directory := { m.directory with misses := [], overflow := false } }
  /-- The oldest un-notified record of the Miss List is notified (R34). -/
  | notified (m : Market) :
      Change m { m with directory := { m.directory with misses := markNotified m.directory.misses } }

/-- A chain of changes. -/
abbrev Market.Changes : Market → Market → Prop := Relation.ReflTransGen Market.Change

theorem Market.Changes.of_eq {m n : Market} (h : n = m) : m.Changes n := h ▸ .refl

/-- What every elementary change keeps, a chain of them keeps. -/
theorem Market.Changes.keeps {P : Market → Prop} (hP : ∀ m n, m.Change n → P m → P n) {m n : Market} (h : m.Changes n)
    (hm : P m) : P n := by
  induction h with
  | refl => exact hm
  | tail _ hc ih => exact hP _ _ hc ih

/-- The step of a request changes the four parts as its work does. -/
theorem request_changes {α : Type} {kind : Byte} {parse : List Byte → Except Reason α} {work : α → State → State} {s t : State}
    (hw : ∀ p a (u : State), parse p = .ok a → u.market.Changes (work a u).market) (h : request kind parse work s = .next t) :
    s.market.Changes t.market := by
  rcases request_cases h with rfl | ⟨reason, rfl⟩ | ⟨p, a, ha, rfl⟩
  · exact .of_eq s.ready_market
  · exact .of_eq (by simp)
  · simpa using hw p a s.ready.takeHead ha

/-- The step of a request whose work leaves the four parts alone. -/
theorem request_market {α : Type} {kind : Byte} {parse : List Byte → Except Reason α} {work : α → State → State} {s t : State}
    (hw : ∀ a (u : State), (work a u).market = u.market) (h : request kind parse work s = .next t) : s.market.Changes t.market :=
  request_changes (fun _ a u _ => .of_eq (hw a u)) h

/-- A step to a state with the same four parts. -/
theorem next_changes {s t u : State} (hu : u.market = s.market) (h : (.next u : Host.Outcome State Fault Refusal) = .next t) :
    s.market.Changes t.market := by
  cases h
  exact .of_eq hu

theorem State.resetBlocks_changes (cause : ResetCause) (phase : Phase) (s : State) :
    s.market.Changes (s.resetBlocks cause phase).market := .single (.reset s.market)

/-! ### The Instrument Table -/

theorem defineWork_changes {p : List Byte} {r : DefineReq} (h : parseDefine p = .ok r) (s : State) :
    s.market.Changes (defineWork r s).market := by
  obtain ⟨h1, h8, ht⟩ := parseDefine_symbol h
  simpa [defineWork] using Relation.ReflTransGen.single (Market.Change.defined s.market r.slot r.format r.symbol h1 h8 ht)

theorem clearWork_changes (slot : Slot) (s : State) : s.market.Changes (clearWork slot s).market := by
  unfold clearWork
  split
  · exact .of_eq (by simp)
  · rename_i hn
    simpa using Relation.ReflTransGen.single (Market.Change.cleared s.market slot (by simpa using hn))

theorem tradingWork_changes (kind : Byte) {state : RecState} (hs : state ≠ .empty) (slot : Slot) (s : State) :
    s.market.Changes (tradingWork kind state slot s).market := by
  unfold tradingWork
  split
  · exact .of_eq (by simp)
  · rename_i he
    simpa using Relation.ReflTransGen.single (Market.Change.traded s.market slot state he hs)

theorem setrefWork_changes {p : List Byte} {r : Slot × Option Nat} (h : parseSetref p = .ok r) (s : State) :
    s.market.Changes (setrefWork r s).market := by
  unfold setrefWork
  split
  · exact .of_eq (by simp)
  · simpa using Relation.ReflTransGen.single (Market.Change.referenced s.market r.1 r.2 (parseSetref_price h))

theorem openDayWork_changes (s : State) : s.market.Changes (openDayWork () s).market := by
  have h : (openDayWork () s).market = { s.market with records := s.records.map rollQuote } := by
    rw [openDayWork, State.ack_market, State.markWhere_market]
    rfl
  exact h ▸ .single (.rolled s.market)

/-- The application of a tick writes its slot's record and leaves the rest of the four parts alone. -/
theorem State.applyAndPrint_market (slot : Slot) (tape : Bool) (it : TickItems) (s : State) :
    (s.applyAndPrint slot tape it).market =
      { s.market with records := s.records.set slot (applyItems s.colour.flashHeat it (s.records.get slot)) } := by
  simp [State.applyAndPrint, State.applyTick]

theorem State.applyAndPrint_staging (slot : Slot) (tape : Bool) (it : TickItems) (s : State) :
    (s.applyAndPrint slot tape it).intake.staging = s.intake.staging :=
  congrArg Market.staging (s.applyAndPrint_market slot tape it)

theorem State.visit_changes (slot : Slot) (s : State) : s.market.Changes (s.visit slot).market := by
  unfold State.visit
  dsimp only
  split
  · exact .refl
  · have hc := Market.Change.cooled s.market slot
    split
    · exact .single hc
    · rw [State.handOver_market]
      exact .single hc

theorem State.scanStep_changes (s : State) : s.market.Changes s.scanStep.market := by
  unfold State.scanStep
  split
  · exact s.visit_changes _
  · exact .refl

/-! ### The Symbol Directory -/

/-- Among entries that no property's holder is found in, none has the property. -/
theorem validWith_any_eq_false {entries : Table 512 (Option DirEntry)} {p : DirEntry → Bool}
    (h : ¬entries.any (validWith p) = true) {j : DirIx} {x : DirEntry} (hx : entries.get j = some x) : p x = false := by
  have := Table.any_eq_false.mp (Bool.not_eq_true _ ▸ h) j
  rwa [hx] at this

theorem installWork_changes (e : DirEntry) (s : State) : s.market.Changes (installWork e s).market := by
  unfold installWork
  split
  · exact .of_eq (by simp)
  · rename_i hslot
    split
    · exact .of_eq (by simp)
    · rename_i hdup
      split
      · exact .of_eq (by simp)
      · rename_i hcon
        split
        · exact .of_eq (by simp)
        · rename_i i _
          exact .single (.installed s.market i e hslot
            (fun j x hx => ⟨validWith_any_eq_false hdup hx, validWith_any_eq_false hcon hx⟩))

theorem removeWork_changes (r : Venue × Bool × Code) (s : State) : s.market.Changes (removeWork r s).market := by
  unfold removeWork
  split
  · rename_i i _
    refine .single (.freed s.market _ (fun j => ?_))
    rw [Table.get_set]
    split
    · exact .inr rfl
    · exact .inl rfl
  · exact .of_eq (by simp)

theorem dflushWork_changes (g : DirGroup) (s : State) : s.market.Changes (dflushWork g s).market := by
  refine .single (.freed s.market _ (fun j => ?_))
  rw [Table.get_map]
  split
  · exact .inr rfl
  · exact .inl rfl

theorem execMissNotice_changes {s t : State} (h : execMissNotice s = .next t) : s.market.Changes t.market := by
  unfold execMissNotice at h
  split at h
  · cases h
    rw [State.admissionMade_market, State.place_market]
    exact .single (.notified s.market)
  · exact next_changes rfl h

/-! ### Quote Intake -/

theorem tickWork_changes {p : List Byte} {r : TickReq} (h : parseTick p = .ok r) (s : State) :
    s.market.Changes (tickWork r s).market := by
  have hr := s.reloadFeed_market
  unfold tickWork
  dsimp only
  generalize s.reloadFeed = t at hr ⊢
  rw [← hr]
  split
  · rename_i e _
    unfold State.disposeHit
    split
    · rw [State.applyAndPrint_market]
      exact .single (.ticked t.market e.slot r.items (.inl (parseTick_items h)))
    · split
      · exact .single (.staged t.market ⟨e.slot, r.tape, r.items⟩ (parseTick_items h))
      · exact .of_eq (by simp)
  · exact .single (.missed t.market r.venue r.code ‹_›)

/-- Staged entries in turn are ticks of the Staging List, which stays as it is until the end of the RELEASE. -/
theorem releaseEntries_changes (l : List Staged) (applied : Nat) (s : State) (h : ∀ e ∈ l, e ∈ s.intake.staging) :
    s.market.Changes (releaseEntries l applied s).2.market := by
  induction l generalizing applied s with
  | nil => exact .refl
  | cons e l ih =>
    unfold releaseEntries
    split
    · exact ih _ _ (fun x hx => h x (List.mem_cons_of_mem _ hx))
    · have hst := s.applyAndPrint_staging e.slot e.tape e.items
      refine .trans (.single ?_) (ih _ _ (fun x hx => hst ▸ h x (List.mem_cons_of_mem _ hx)))
      rw [State.applyAndPrint_market]
      exact .ticked s.market e.slot e.items (.inr ⟨e, h e List.mem_cons_self, rfl⟩)

theorem State.endRelease_changes (applied : Nat) (s : State) : s.market.Changes (s.endRelease applied).market :=
  .single (.unstaged s.market)

theorem continueRelease_changes (n dealt applied : Nat) (s : State) :
    s.market.Changes (continueRelease n dealt applied s).market := by
  unfold continueRelease
  split
  · exact s.settled_market ▸ s.settled.endRelease_changes applied
  · have hd := releaseEntries_changes ((s.intake.staging.drop dealt).take n) applied s
      (fun e he => List.mem_of_mem_drop (List.mem_of_mem_take he))
    dsimp only
    split
    · exact hd.trans (State.endRelease_changes _ _)
    · exact hd

theorem execRelease_changes {n : Nat} {s t : State} (h : execRelease n s = .next t) : s.market.Changes t.market := by
  unfold execRelease at h
  split at h
  · cases h
    exact continueRelease_changes _ _ _ _
  · exact request_changes (fun _ _ u _ => continueRelease_changes n 0 0 u) h
  · exact request_changes (fun _ _ u _ => continueRelease_changes n 0 0 u) h
  · exact next_changes s.settled_market h

/-! ### The Link Interface and the Painter -/

theorem execUnknownKind_market {s t : State} (h : execUnknownKind s = .next t) : t.market = s.market := by
  unfold execUnknownKind at h
  split at h
  · split at h <;> cases h <;> simp
  · cases h
    exact s.ready_market

theorem execStatus_changes {n : Nat} {s t : State} (h : execStatus n s = .next t) : s.market.Changes t.market := by
  unfold execStatus at h
  split at h
  · exact next_changes (by rw [continueStatus_market, State.settled_market]) h
  · exact request_market (fun _ u => continueStatus_market n 0 _ u) h
  · exact request_market (fun _ u => continueStatus_market n 0 _ u) h
  · exact next_changes s.settled_market h

theorem execBadFrameAdmission_market {s t : State} (h : execBadFrameAdmission s = .next t) : t.market = s.market := by
  unfold execBadFrameAdmission at h
  split at h <;> cases h <;> simp

theorem execOverrunAdmission_market {s t : State} (h : execOverrunAdmission s = .next t) : t.market = s.market := by
  unfold execOverrunAdmission at h
  split at h <;> cases h <;> simp

theorem execFeedNotice_market {s t : State} (h : execFeedNotice s = .next t) : t.market = s.market := by
  unfold execFeedNotice at h
  split at h <;> cases h <;> simp

theorem execResetNReleased_market {r1 r0 : Bool} {s t : State} (h : execResetNReleased r1 r0 s = .next t) :
    t.market = s.market := by
  unfold execResetNReleased at h
  split at h <;> cases h <;> rfl

theorem execInitialisationEnd_market {s t : State} (h : execInitialisationEnd s = .next t) : t.market = s.market := by
  unfold execInitialisationEnd at h
  split at h <;> cases h <;> rfl

theorem execRxdCharacter_market {b : Byte} {good : Bool} {s t : State} (h : execRxdCharacter b good s = .next t) :
    t.market = s.market := by
  unfold execRxdCharacter at h
  split at h <;> cases h <;> rfl

theorem execFrameGapTimeout_market {s t : State} (h : execFrameGapTimeout s = .next t) : t.market = s.market := by
  unfold execFrameGapTimeout at h
  split at h <;> cases h <;> rfl

theorem execTaking_market {s t : State} (h : execTaking s = .next t) : t.market = s.market := by
  unfold execTaking at h
  split at h
  · split at h <;> cases h <;> simp
  · cases h
    exact s.takeOne_market _ _
  · cases h
    rfl
  · cases h
    rfl

/-! ### Every command -/

/-- Every command makes a chain of the elementary changes of the four parts. -/
theorem exec_changes {c : Instr} {s t : State} (h : exec c s = .next t) : s.market.Changes t.market := by
  cases c with
  | resetNAsserted => cases h; exact s.resetBlocks_changes .pin .held
  | resetNReleased r1 r0 => exact .of_eq (execResetNReleased_market h)
  | initialisationEnd => exact .of_eq (execInitialisationEnd_market h)
  | rxdCharacter b good => exact .of_eq (execRxdCharacter_market h)
  | frameGapTimeout => exact .of_eq (execFrameGapTimeout_market h)
  | recordSent => exact next_changes (s.setLink_market _) h
  | badFrameAdmission => exact .of_eq (execBadFrameAdmission_market h)
  | overrunAdmission => exact .of_eq (execOverrunAdmission_market h)
  | feedNotice => exact .of_eq (execFeedNotice_market h)
  | missNotice => exact execMissNotice_changes h
  | unknownKind => exact .of_eq (execUnknownKind_market h)
  | reset => exact request_changes (fun _ _ u _ => u.resetBlocks_changes .message .initialising) h
  | status n => exact execStatus_changes h
  | define => exact request_changes (fun _ _ u hp => defineWork_changes hp u) h
  | clear => exact request_changes (fun _ slot u _ => clearWork_changes slot u) h
  | halt => exact request_changes (fun _ slot u _ => tradingWork_changes _ (state := .halted) (by decide) slot u) h
  | resume => exact request_changes (fun _ slot u _ => tradingWork_changes _ (state := .active) (by decide) slot u) h
  | setref => exact request_changes (fun _ _ u hp => setrefWork_changes hp u) h
  | openDay => exact request_changes (fun _ _ u _ => openDayWork_changes u) h
  | query => exact request_market (fun _ u => u.reply_market _) h
  | install => exact request_changes (fun _ e u _ => installWork_changes e u) h
  | remove => exact request_changes (fun _ r u _ => removeWork_changes r u) h
  | dflush => exact request_changes (fun _ g u _ => dflushWork_changes g u) h
  | dprobe => exact request_market (fun _ u => u.reply_market _) h
  | mpurge => exact request_changes (fun _ _ u _ => .single (.purged u.market)) h
  | tick => exact request_changes (fun _ _ u hp => tickWork_changes hp u) h
  | release n => exact execRelease_changes h
  | discard => exact request_changes (fun _ _ u _ => .single (.unstaged u.market)) h
  | heartbeat => exact request_market (fun _ u => by rw [State.ack_market, State.reloadFeed_market]) h
  | watch => exact request_market watchWork_market h
  | feedWatchExpiry => exact next_changes (by simp) h
  | heatScanStep => cases h; exact s.settled_market ▸ s.settled.scanStep_changes
  | map => exact request_market mapWork_market h
  | unmap => exact request_market unmapWork_market h
  | mflush => exact request_market mflushWork_market h
  | mprobe => exact request_market (fun _ u => u.reply_market _) h
  | mfind => exact request_market (fun _ u => u.reply_market _) h
  | settext => exact request_market settextWork_market h
  | setattr => exact request_market (by exact fun _ _ => rfl) h
  | setpal => exact request_market setpalWork_market h
  | heatcfg => exact request_changes (fun _ r u hp => .single (.heated u.market r.flashHeat (parseHeatcfg_flash hp))) h
  | blink => exact request_market (by exact fun _ _ => rfl) h
  | band => exact request_market bandWork_market h
  | showBand => exact request_market showWork_market h
  | paint => exact request_market (by exact fun _ _ => rfl) h
  | tapetext => exact request_market tapetextWork_market h
  | tapespeed => exact request_market (by exact fun _ _ => rfl) h
  | frameStart => exact next_changes (by simp) h
  | bandClear k => exact next_changes (by simp) h
  | taking => exact .of_eq (execTaking_market h)
  | curtainRelease k => exact next_changes (by simp) h
  | rasterReading => exact next_changes (by simp) h

/-- So does every step: with no command waiting there is none. -/
theorem step_changes {s t : State} (h : step s = .next t) : s.market.Changes t.market := by
  unfold step at h
  split at h
  · exact next_changes rfl h
  · have hc := exec_changes h
    exact hc

end Sys2Proof.Machine
end

section
/-! SUPPORT. What the items of a tick leave in each field of a record (R14 to R19), and what they mark (R6). -/

namespace Sys2Proof.Machine

open Sys2Proof

/-- A REF item, or its absence, sets the reference and nothing else (R15). -/
theorem applyRef_eq (item : Option Nat) (q : Quote) : applyRef item q = { q with reference := item.or q.reference } := by
  cases item <;> rfl

/-- A BID item, or its absence, sets the bid and nothing else (R18). -/
theorem applyBid_eq (item : Option Nat) (q : Quote) : applyBid item q = { q with bid := item.or q.bid } := by
  cases item <;> rfl

/-- An ASK item, or its absence, sets the ask and nothing else (R18). -/
theorem applyAsk_eq (item : Option Nat) (q : Quote) : applyAsk item q = { q with ask := item.or q.ask } := by
  cases item <;> rfl

/-- A VOL item, or its absence, sets the volume and nothing else (R19). -/
theorem applyVol_eq (item : Option Nat) (q : Quote) : applyVol item q = { q with volume := item.getD q.volume } := by
  cases item <;> rfl

/-- The day's high takes a price above it (R17). -/
theorem high_of_raisesHigh (q : Quote) (new : Nat) :
    (if raisesHigh q new then some new else q.high) = some (match q.high with | some h => max h new | none => new) := by
  unfold raisesHigh
  cases q.high with
  | none => rfl
  | some h =>
    by_cases hlt : h < new
    · simp [hlt, Nat.max_eq_right hlt.le]
    · simp [hlt, Nat.max_eq_left (not_lt.mp hlt)]

/-- The day's low takes a price below it (R17). -/
theorem low_of_lowersLow (q : Quote) (new : Nat) :
    (if lowersLow q new then some new else q.low) = some (match q.low with | some l => min l new | none => new) := by
  unfold lowersLow
  cases q.low with
  | none => rfl
  | some l =>
    by_cases hlt : new < l
    · simp [hlt, Nat.min_eq_right hlt.le]
    · simp [hlt, Nat.min_eq_left (not_lt.mp hlt)]

/-- A LAST item of a price and a size (R16, R17). -/
theorem applyLast_some (flash new size : Nat) (q : Quote) :
    applyLast flash (some (new, size)) q =
      { q with
        direction := (moved flash new q).1
        heat := (moved flash new q).2
        last := some new
        high := some (match q.high with | some h => max h new | none => new)
        low := some (match q.low with | some l => min l new | none => new)
        volume := min (q.volume + size) 4294967295 } := by
  rw [← high_of_raisesHigh, ← low_of_lowersLow]
  rfl

/-- A LAST item leaves the heat, or sets the flash heat (R16). -/
theorem moved_heat (flash new : Nat) (q : Quote) : (moved flash new q).2 = flash ∨ (moved flash new q).2 = q.heat := by
  unfold moved
  split
  all_goals (repeat' split)
  all_goals simp

/-- Direction and heat by the old last price, whatever the reference (R16). -/
theorem moved_of_last {old : Nat} {q : Quote} (h : q.last = some old) (ref : Option Nat) (flash new : Nat) :
    moved flash new { q with reference := ref } =
      if old < new then (.up, flash) else if new < old then (.down, flash) else (q.direction, q.heat) := by
  simp only [moved, h, gt_iff_lt]

/-- Direction and heat by the reference, where there was no last price (R16). -/
theorem moved_of_reference {r : Nat} {ref : Option Nat} {q : Quote} (h : q.last = none) (hr : ref = some r) (flash new : Nat) :
    moved flash new { q with reference := ref } =
      if r < new then (.up, flash) else if new < r then (.down, flash) else (.none, q.heat) := by
  simp only [moved, h, hr, gt_iff_lt]

/-- Direction and heat with nothing to compare with (R16). -/
theorem moved_of_none {ref : Option Nat} {q : Quote} (h : q.last = none) (hr : ref = none) (flash new : Nat) :
    moved flash new { q with reference := ref } = (.none, q.heat) := by
  simp only [moved, h, hr]

/-- The application of a tick, each item on the fields of its own (R14). -/
theorem applyItems_eq (flash : Nat) (it : TickItems) (q : Quote) :
    applyItems flash it q =
      let r := applyLast flash it.last { q with reference := it.ref.or q.reference }
      { r with bid := it.bid.or r.bid, ask := it.ask.or r.ask, volume := it.vol.getD r.volume } := by
  simp only [applyItems, applyRef_eq, applyBid_eq, applyAsk_eq, applyVol_eq]

/-- A tick without LAST. -/
theorem applyItems_of_no_last {it : TickItems} (h : it.last = none) (flash : Nat) (q : Quote) :
    applyItems flash it q = { q with
      reference := it.ref.or q.reference, bid := it.bid.or q.bid, ask := it.ask.or q.ask, volume := it.vol.getD q.volume } := by
  rw [applyItems_eq, h]
  rfl

/-- A tick with LAST. -/
theorem applyItems_of_last {it : TickItems} {new size : Nat} (h : it.last = some (new, size)) (flash : Nat) (q : Quote) :
    applyItems flash it q = { q with
      direction := (moved flash new { q with reference := it.ref.or q.reference }).1
      heat := (moved flash new { q with reference := it.ref.or q.reference }).2
      last := some new
      high := some (match q.high with | some h => max h new | none => new)
      low := some (match q.low with | some l => min l new | none => new)
      reference := it.ref.or q.reference
      bid := it.bid.or q.bid
      ask := it.ask.or q.ask
      volume := it.vol.getD (min (q.volume + size) 4294967295) } := by
  rw [applyItems_eq, h, applyLast_some]

/-- A tick keeps the state, the symbol and the format, and sets the reference, the bid and the ask by their own items alone. -/
theorem applyItems_frame (flash : Nat) (it : TickItems) (q : Quote) :
    (applyItems flash it q).state = q.state ∧ (applyItems flash it q).symbol = q.symbol
      ∧ (applyItems flash it q).format = q.format ∧ (applyItems flash it q).reference = it.ref.or q.reference
      ∧ (applyItems flash it q).bid = it.bid.or q.bid ∧ (applyItems flash it q).ask = it.ask.or q.ask := by
  cases h : it.last with
  | none => rw [applyItems_of_no_last h]; exact ⟨rfl, rfl, rfl, rfl, rfl, rfl⟩
  | some x => rw [applyItems_of_last (new := x.1) (size := x.2) h]; exact ⟨rfl, rfl, rfl, rfl, rfl, rfl⟩

/-- A LAST item raises the high where it was absent or lies below the price (R17). -/
theorem raisesHigh_eq (q : Quote) (new : Nat) : raisesHigh q new = q.high.all (fun h => decide (h < new)) := by
  unfold raisesHigh
  cases q.high <;> rfl

/-- A LAST item lowers the low where it was absent or lies above the price (R17). -/
theorem lowersLow_eq (q : Quote) (new : Nat) : lowersLow q new = q.low.all (fun l => decide (new < l)) := by
  unfold lowersLow
  cases q.low <;> rfl

/-- Whether a tick of these items marks an item on a record (R15, R17, R18, R19). -/
def TickItems.marks (it : TickItems) (q : Quote) : Item → Bool
  | .sym => false
  | .last => it.last.isSome
  | .net => it.last.isSome || it.ref.isSome
  | .pct => it.last.isSome || it.ref.isSome
  | .bid => it.bid.isSome
  | .ask => it.ask.isSome
  | .high => it.last.any (fun x => q.high.all (fun h => decide (h < x.1)))
  | .low => it.last.any (fun x => q.low.all (fun l => decide (x.1 < l)))
  | .vol => it.vol.isSome || it.last.any (fun x => decide (0 < x.2))
  | .text => false

/-- The members of a list with a property, one by one. -/
theorem filter_cons_append {α : Type} (p : α → Bool) (a : α) (l : List α) :
    (a :: l).filter p = (if p a then [a] else []) ++ l.filter p := by
  rw [List.filter_cons]
  split <;> rfl

/-- The marks of a tick are the marked ones of the nine items, in ascending number (R6). -/
theorem tickMarks_eq_filter (it : TickItems) (q : Quote) : tickMarks it q = slotItems.filter (it.marks q) := by
  have hnet : ∀ (b : Bool) (rest : List Item), (if b then [Item.net] else []) ++ ((if b then [.pct] else []) ++ rest)
      = (if b then [.net, .pct] else []) ++ rest := by
    intro b rest
    cases b <;> rfl
  have hpct : it.marks q .pct = it.marks q .net := rfl
  simp only [slotItems, filter_cons_append, List.filter_nil, List.append_nil]
  rw [hpct, hnet]
  cases h : it.last with
  | none => simp [tickMarks, TickItems.marks, h] <;> rfl
  | some x => simp [tickMarks, TickItems.marks, h, raisesHigh_eq, lowersLow_eq] <;> rfl

end Sys2Proof.Machine

open Sys2Proof Sys2Proof.Machine

/-- Settles O19: each item's closed form for the fields, and for the marks the seven segments of the list in turn. -/
theorem tickItemsApplied : Obligations.TickItemsApplied := by
  refine ⟨fun flash it q => ?_, fun it q => ?_⟩
  · obtain ⟨hs, hy, hf, hr, hb, ha⟩ := applyItems_frame flash it q
    refine ⟨hs, hy, hf, hr, hb, ha, fun hl => ?_, fun new size hl => ?_⟩
    · rw [applyItems_of_no_last hl]
      exact ⟨rfl, rfl, rfl, rfl, rfl, rfl⟩
    · rw [applyItems_of_last hl]
      exact ⟨rfl, rfl, rfl, rfl, fun old h => moved_of_last h _ flash new,
        fun ref h href => moved_of_reference h href flash new, fun h href => moved_of_none h href flash new⟩
  · exact tickMarks_eq_filter it q
end

section
/-! SUPPORT. The laws of the quote records and of the directory, kept by every elementary change, and so by every step. -/

namespace Sys2Proof.Machine

open Sys2Proof

/-! ### The law of one record (R1, R4) -/

/-- What is asked of the six prices of a record is asked of each. -/
theorem forall_six_prices {P : Option Nat → Prop} {a b c d e f : Option Nat} :
    (∀ p ∈ [a, b, c, d, e, f], P p) ↔ P a ∧ P b ∧ P c ∧ P d ∧ P e ∧ P f := by simp

/-- A record without prices is lawful when its symbol is. -/
theorem priceless_lawful {state : RecState} {symbol : List Byte} {format : Format} {reference : Option Nat}
    {direction : Direction} (hr : ∀ v ∈ reference, v ≤ 999999999) (hlen : symbol.length ≤ 8)
    (hsym : state ≠ .empty → symbol ≠ []) (htext : ∀ b ∈ symbol, printable b = true) :
    (Quote.mk state symbol format none reference none none none none 0 0 direction).Lawful where
  heat := Nat.zero_le _
  cold _ := rfl
  high := rfl
  low := rfl
  belowHigh := by simp
  aboveLow := by simp
  prices := forall_six_prices.mpr ⟨by simp, hr, by simp, by simp, by simp, by simp⟩
  volume := Nat.zero_le _
  symbolLength := hlen
  symbolPresent := hsym
  symbolText := htext

theorem Quote.empty_lawful : Quote.empty.Lawful := priceless_lawful (by simp) (by simp) (by simp) (by simp)

/-- A lawful record with another reference in range. -/
theorem Quote.Lawful.withReference {q : Quote} (h : q.Lawful) {price : Option Nat} (hp : ∀ v ∈ price, v ≤ 999999999) :
    ({ q with reference := price } : Quote).Lawful :=
  let ⟨hl, _, hb, ha, hh, hw⟩ := forall_six_prices.mp h.prices
  { h with prices := forall_six_prices.mpr ⟨hl, hp, hb, ha, hh, hw⟩ }

/-- A lawful record with another bid, ask and volume in range. -/
theorem Quote.Lawful.withQuotes {q : Quote} (h : q.Lawful) {bid ask : Option Nat} {volume : Nat}
    (hb : ∀ v ∈ bid, v ≤ 999999999) (ha : ∀ v ∈ ask, v ≤ 999999999) (hv : volume ≤ 4294967295) :
    ({ q with bid := bid, ask := ask, volume := volume } : Quote).Lawful :=
  let ⟨hl, hr, _, _, hh, hw⟩ := forall_six_prices.mp h.prices
  { h with volume := hv, prices := forall_six_prices.mpr ⟨hl, hr, hb, ha, hh, hw⟩ }

/-- HALT and RESUME give a defined record, which has a symbol, another state (R10). -/
theorem Quote.Lawful.withState {q : Quote} (h : q.Lawful) (hq : q.state ≠ .empty) (state : RecState) :
    ({ q with state := state } : Quote).Lawful :=
  { h with symbolPresent := fun _ => h.symbolPresent hq }

/-- The Heat Scan lowers heat, which is 0 already where there is no last price (R106). -/
theorem Quote.Lawful.cooled {q : Quote} (h : q.Lawful) : ({ q with heat := q.heat - 1 } : Quote).Lawful :=
  { h with
    heat := (Nat.sub_le _ _).trans h.heat
    cold := fun hn => by simp [h.cold hn] }

/-- The roll makes last, high and low absent and heat 0 together (R12). -/
theorem Quote.Lawful.rolled {q : Quote} (h : q.Lawful) : (rollQuote q).Lawful := by
  obtain ⟨hl, hr, -⟩ := forall_six_prices.mp h.prices
  unfold rollQuote
  split
  · exact h
  · refine priceless_lawful ?_ h.symbolLength h.symbolPresent h.symbolText
    split
    · exact hl
    · exact hr

/-- A LAST item brings high and low up to the price it sets, and the heat stays or takes the flash heat (R16, R17). -/
theorem Quote.Lawful.applyLast {q : Quote} (h : q.Lawful) {flash : Nat} (hf : flash ≤ 15) {item : Option (Nat × Nat)}
    (hi : ∀ x ∈ item, x.1 ≤ 999999999) : (applyLast flash item q).Lawful := by
  match item with
  | none => exact h
  | some (new, size) =>
    have hnew : new ≤ 999999999 := hi _ rfl
    obtain ⟨-, hr, hb, ha, hh, hw⟩ := forall_six_prices.mp h.prices
    rw [applyLast_some]
    refine { h with
      heat := ?_, cold := nofun, high := rfl, low := rfl, belowHigh := ?_, aboveLow := ?_
      prices := forall_six_prices.mpr ⟨?_, hr, hb, ha, ?_, ?_⟩, volume := min_le_right _ _ }
    · rcases moved_heat flash new q with e | e
      · exact e.trans_le hf
      · exact e.trans_le h.heat
    · rintro _ ⟨⟩ _ ⟨⟩
      split
      · exact le_max_right _ _
      · exact le_rfl
    · rintro _ ⟨⟩ _ ⟨⟩
      split
      · exact min_le_right _ _
      · exact le_rfl
    · rintro _ ⟨⟩
      exact hnew
    · rintro _ ⟨⟩
      split
      · exact max_le (hh _ ‹_›) hnew
      · exact hnew
    · rintro _ ⟨⟩
      split
      · exact (min_le_right _ _).trans hnew
      · exact hnew

/-- A value that an item replaces, or that is kept where there is none, is in range when both are. -/
theorem forall_mem_or {P : Nat → Prop} {a b : Option Nat} (ha : ∀ v ∈ a, P v) (hb : ∀ v ∈ b, P v) : ∀ v ∈ a.or b, P v := by
  cases a with
  | none => simpa using hb
  | some x => simpa using ha

/-- The application of a lawful tick keeps a record's law (R14 to R19). -/
theorem Quote.Lawful.applyItems {q : Quote} (h : q.Lawful) {flash : Nat} (hf : flash ≤ 15) {it : TickItems} (hi : it.Lawful) :
    (applyItems flash it q).Lawful := by
  obtain ⟨hlast, hprices, hvol⟩ := hi
  obtain ⟨hbid, hask, href⟩ : (∀ v ∈ it.bid, v ≤ 999999999) ∧ (∀ v ∈ it.ask, v ≤ 999999999) ∧ ∀ v ∈ it.ref, v ≤ 999999999 :=
    ⟨hprices _ (by simp), hprices _ (by simp), hprices _ (by simp)⟩
  obtain ⟨-, hr, -⟩ := forall_six_prices.mp h.prices
  have hlaw := (h.withReference (forall_mem_or href hr)).applyLast hf (fun x hx => (hlast x hx).1)
  obtain ⟨-, -, hb, ha, -⟩ := forall_six_prices.mp hlaw.prices
  rw [applyItems_eq]
  refine hlaw.withQuotes (forall_mem_or hbid hb) (forall_mem_or hask ha) ?_
  cases hv : it.vol with
  | none => exact hlaw.volume
  | some v => exact hvol v hv

/-! ### Every record keeps its law -/

/-- The law of the records, of the four parts it speaks of. -/
structure Market.RecordsLawful (m : Market) : Prop where
  records : ∀ slot, (m.records.get slot).Lawful
  staged : ∀ e ∈ m.staging, e.items.Lawful
  flash : 1 ≤ m.flash ∧ m.flash ≤ 15

theorem State.recordsLawful_iff {s : State} : s.RecordsLawful ↔ s.market.RecordsLawful :=
  ⟨fun ⟨hr, hs, hf⟩ => ⟨hr, hs, hf⟩, fun ⟨hr, hs, hf⟩ => ⟨hr, hs, hf⟩⟩

/-- A lawful record is written. -/
theorem Market.RecordsLawful.setRecord {m : Market} (h : m.RecordsLawful) (slot : Slot) {q : Quote} (hq : q.Lawful) :
    { m with records := m.records.set slot q }.RecordsLawful where
  staged := h.staged
  flash := h.flash
  records := by
    intro j
    rw [Table.get_set]
    split
    · exact hq
    · exact h.records j

@[simp] theorem reset_records_get (slot : Slot) : State.reset.records.get slot = Quote.empty := Table.get_replicate _ _
@[simp] theorem reset_entries_get (i : DirIx) : State.reset.directory.entries.get i = none := Table.get_replicate _ _

theorem reset_recordsLawful : State.reset.market.RecordsLawful where
  records slot := by
    rw [State.market_records, reset_records_get]
    exact Quote.empty_lawful
  staged := nofun
  flash := by decide

/-- Every elementary change keeps the law of the records: each writer of a record keeps that record's law (R4). -/
theorem Market.Change.keeps_recordsLawful {m n : Market} (hc : m.Change n) (h : m.RecordsLawful) : n.RecordsLawful := by
  cases hc with
  | reset => exact reset_recordsLawful
  | defined slot format symbol hmin hmax htext =>
    exact h.setRecord slot (priceless_lawful nofun hmax (fun _ => List.ne_nil_of_length_pos hmin) htext)
  | cleared slot => exact h.setRecord slot (priceless_lawful nofun (Nat.zero_le _) (absurd rfl) nofun)
  | traded slot state hd => exact h.setRecord slot ((h.records slot).withState hd state)
  | referenced slot price hp => exact h.setRecord slot ((h.records slot).withReference hp)
  | rolled => exact ⟨fun slot => by rw [Table.get_map]; exact (h.records slot).rolled, h.staged, h.flash⟩
  | ticked slot it hi =>
    have hit : it.Lawful := by
      rcases hi with hi | ⟨e, he, rfl⟩
      · exact hi
      · exact h.staged e he
    exact h.setRecord slot ((h.records slot).applyItems h.flash.2 hit)
  | cooled slot => exact h.setRecord slot (h.records slot).cooled
  | staged e he =>
    refine ⟨h.records, fun x hx => ?_, h.flash⟩
    rcases List.mem_append.mp hx with hx | hx
    · exact h.staged x hx
    · exact List.mem_singleton.mp hx ▸ he
  | unstaged => exact ⟨h.records, nofun, h.flash⟩
  | heated flash hf => exact ⟨h.records, h.staged, hf⟩
  | installed => exact ⟨h.records, h.staged, h.flash⟩
  | freed => exact ⟨h.records, h.staged, h.flash⟩
  | missed => exact ⟨h.records, h.staged, h.flash⟩
  | purged => exact ⟨h.records, h.staged, h.flash⟩
  | notified => exact ⟨h.records, h.staged, h.flash⟩

/-! ### The lookup (R22, R23) -/

theorem DirEntry.covers_iff {e : DirEntry} {venue : Venue} {code : Code} :
    e.covers venue code = true ↔ e.code = code ∧ (e.venue = venue ∨ e.any = true) := by
  simp [DirEntry.covers]

/-- A lookup misses exactly where no valid entry matches the pair. -/
theorem Directory.find_eq_none {d : Directory} {venue : Venue} {code : Code} :
    d.find venue code = none ↔ ∀ i e, d.entries.get i = some e → e.covers venue code = false := by
  have hvalid : (∀ i, validWith (fun e => e.covers venue code) (d.entries.get i) = false) ↔
      ∀ i e, d.entries.get i = some e → e.covers venue code = false := by
    refine forall_congr' fun i => ?_
    cases d.entries.get i <;> simp [validWith]
  rw [← hvalid, ← Table.lowest_eq_none]
  unfold Directory.find
  cases h : d.entries.lowest (validWith (fun e => e.covers venue code)) with
  | none => simp
  | some i =>
    have hi := (Table.lowest_eq_some.mp h).1
    cases he : d.entries.get i with
    | none => rw [he] at hi; cases hi
    | some e => simp [he]

/-- The one valid entry that matches a pair is the one the lookup finds. -/
theorem Directory.find_eq_some {d : Directory} {venue : Venue} {code : Code} {i : DirIx} {e : DirEntry}
    (he : d.entries.get i = some e) (hc : e.covers venue code = true)
    (hone : ∀ j x, d.entries.get j = some x → x.covers venue code = true → j = i) :
    d.find venue code = some (i, e) := by
  have hl : d.entries.lowest (validWith (fun e => e.covers venue code)) = some i := by
    refine Table.lowest_eq_some.mpr ⟨by rw [he]; exact hc, fun j hj => ?_⟩
    cases hx : d.entries.get j with
    | none => rfl
    | some x =>
      refine Bool.eq_false_iff.mpr fun hcov => ?_
      exact absurd (hone j x hx hcov) hj.ne
  rw [Directory.find, hl]
  simp [he]

/-- A slot that the directory does not name is named by none of its valid entries. -/
theorem Directory.names_eq_false {d : Directory} {slot : Slot} :
    d.names slot = false ↔ ∀ i e, d.entries.get i = some e → e.slot ≠ slot := by
  rw [Directory.names, Table.any_eq_false]
  refine forall_congr' fun i => ?_
  cases d.entries.get i <;> simp

/-! ### The directory keeps its law -/

/-- The law of the directory, of the four parts it speaks of. -/
structure Market.DirectoryLawful (m : Market) : Prop where
  unambiguous : ∀ i j e x venue code, m.directory.entries.get i = some e → m.directory.entries.get j = some x →
    e.covers venue code = true → x.covers venue code = true → i = j
  defined : ∀ i e, m.directory.entries.get i = some e → (m.records.get e.slot).state ≠ .empty
  distinct : m.directory.misses.Pairwise (fun a b => ¬(a.venue = b.venue ∧ a.code = b.code))
  unmatched : ∀ a ∈ m.directory.misses, ∀ i e, m.directory.entries.get i = some e → e.covers a.venue a.code = false

theorem State.directoryLawful_iff {s : State} : s.DirectoryLawful ↔ s.market.DirectoryLawful :=
  ⟨fun ⟨hu, hd, hs, hm⟩ => ⟨hu, hd, hs, hm⟩, fun ⟨hu, hd, hs, hm⟩ => ⟨hu, hd, hs, hm⟩⟩

theorem reset_directoryLawful : State.reset.market.DirectoryLawful := by
  refine ⟨fun i _ e _ _ _ he => ?_, fun i e he => ?_, .nil, nofun⟩
  · rw [State.market_directory, reset_entries_get] at he
    cases he
  · rw [State.market_directory, reset_entries_get] at he
    cases he

/-- A change of the records keeps the law where the records that entries name stay defined. -/
theorem Market.DirectoryLawful.of_defined {m : Market} (h : m.DirectoryLawful) {records : Table 512 Quote}
    (hr : ∀ i e, m.directory.entries.get i = some e → (m.records.get e.slot).state ≠ .empty →
      (records.get e.slot).state ≠ .empty) : { m with records := records }.DirectoryLawful :=
  { h with defined := fun i e he => hr i e he (h.defined i e he) }

/-- A record is written, defined where it was. -/
theorem Market.DirectoryLawful.setRecord {m : Market} (h : m.DirectoryLawful) (slot : Slot) {q : Quote}
    (hq : (m.records.get slot).state ≠ .empty → q.state ≠ .empty) :
    { m with records := m.records.set slot q }.DirectoryLawful := by
  refine h.of_defined fun i e _ hd => ?_
  rw [Table.get_set]
  split
  · exact hq (‹e.slot = slot› ▸ hd)
  · exact hd

theorem rollQuote_state (q : Quote) : (rollQuote q).state = q.state := by
  unfold rollQuote
  split <;> rfl

/-- No pair is matched both by an entry and by one that INSTALL finds neither of its identity nor in conflict with it (R25). -/
theorem DirEntry.not_both_cover {e x : DirEntry} (hi : e.sameIdentity x = false ∧ e.conflicts x = false) {venue : Venue}
    {code : Code} (he : e.covers venue code = true) (hx : x.covers venue code = true) : False := by
  obtain ⟨hec, hev⟩ := DirEntry.covers_iff.mp he
  obtain ⟨hxc, hxv⟩ := DirEntry.covers_iff.mp hx
  have hcode : x.code = e.code := hxc.trans hec.symm
  obtain ⟨hea, hxa⟩ : e.any = false ∧ x.any = false := by simpa [DirEntry.conflicts, hcode] using hi.2
  have hev : e.venue = venue := by simpa [hea] using hev
  have hxv : x.venue = venue := by simpa [hxa] using hxv
  have hven : x.venue = e.venue := hxv.trans hev.symm
  have hsame := hi.1
  simp [DirEntry.sameIdentity, hven, hea, hxa, hcode] at hsame

/-- INSTALL keeps the law: its checks leave no pair that the new entry and another match (R25), and the misses it matches are
removed (R26). -/
theorem Market.DirectoryLawful.install {m : Market} (h : m.DirectoryLawful) (i : DirIx) {e : DirEntry}
    (hslot : (m.records.get e.slot).state ≠ .empty)
    (hid : ∀ j x, m.directory.entries.get j = some x → e.sameIdentity x = false ∧ e.conflicts x = false) :
    { m with directory := { m.directory with
        entries := m.directory.entries.set i (some e)
        misses := m.directory.misses.filter (fun x => !(e.covers x.venue x.code)) } }.DirectoryLawful := by
  -- an entry of the new table is the one installed, or an old one
  have hget : ∀ {j x}, (m.directory.entries.set i (some e)).get j = some x →
      (j = i ∧ x = e) ∨ m.directory.entries.get j = some x := by
    intro j x hx
    rw [Table.get_set] at hx
    split at hx
    · exact .inl ⟨‹_›, (Option.some.inj hx).symm⟩
    · exact .inr hx
  refine ⟨fun j k x y venue code hx hy hcx hcy => ?_, fun j x hx => ?_, h.distinct.filter _, fun a ha j x hx => ?_⟩
  · rcases hget hx with ⟨rfl, rfl⟩ | hx' <;> rcases hget hy with ⟨rfl, rfl⟩ | hy'
    · rfl
    · exact (DirEntry.not_both_cover (hid k y hy') hcx hcy).elim
    · exact (DirEntry.not_both_cover (hid j x hx') hcy hcx).elim
    · exact h.unambiguous j k x y venue code hx' hy' hcx hcy
  · rcases hget hx with ⟨-, rfl⟩ | hx
    · exact hslot
    · exact h.defined j x hx
  · obtain ⟨hmem, hnot⟩ := List.mem_filter.mp ha
    rcases hget hx with ⟨-, rfl⟩ | hx
    · simpa using hnot
    · exact h.unmatched a hmem j x hx

/-- Freed entries match no pair and name no slot. -/
theorem Market.DirectoryLawful.free {m : Market} (h : m.DirectoryLawful) {entries : Table 512 (Option DirEntry)}
    (he : ∀ i, entries.get i = m.directory.entries.get i ∨ entries.get i = none) :
    { m with directory := { m.directory with entries := entries } }.DirectoryLawful := by
  have hget : ∀ {i e}, entries.get i = some e → m.directory.entries.get i = some e := by
    intro i e hi
    rcases he i with hs | hn
    · exact hs ▸ hi
    · rw [hn] at hi
      cases hi
  exact ⟨fun i j e x venue code hi hj => h.unambiguous i j e x venue code (hget hi) (hget hj),
    fun i e hi => h.defined i e (hget hi), h.distinct, fun a ha i e hi => h.unmatched a ha i e (hget hi)⟩

/-- A pair whose lookup has missed is offered to the Miss List, which takes it only where it does not hold it (R32, R33). -/
theorem Market.DirectoryLawful.miss {m : Market} (h : m.DirectoryLawful) {venue : Venue} {code : Code}
    (hm : m.directory.find venue code = none) :
    { m with directory := m.directory.offerMiss venue code }.DirectoryLawful := by
  unfold Directory.offerMiss
  split
  · exact h
  · rename_i hnew
    split
    · refine { h with distinct := ?_, unmatched := fun a ha => ?_ }
      · refine List.pairwise_append.mpr ⟨h.distinct, List.pairwise_singleton _ _, fun a ha b hb => ?_⟩
        rw [List.mem_singleton.mp hb]
        simp only [List.any_eq_true, not_exists, not_and, Bool.and_eq_true, decide_eq_true_eq] at hnew
        exact fun hab => hnew a ha hab.1 hab.2
      · rcases List.mem_append.mp ha with ha | ha
        · exact h.unmatched a ha
        · rw [List.mem_singleton.mp ha]
          exact Directory.find_eq_none.mp hm
    · exact { h with }

/-- The pair of a record of the Miss List. -/
def Miss.pair (a : Miss) : Venue × Code := (a.venue, a.code)

/-- The notice of a miss changes no pair of the list. -/
theorem markNotified_map_pair (l : List Miss) : (markNotified l).map Miss.pair = l.map Miss.pair := by
  induction l with
  | nil => rfl
  | cons a l ih =>
    unfold markNotified
    split
    · simp [ih]
    · rfl

theorem distinct_iff_map_pair {l : List Miss} :
    l.Pairwise (fun a b => ¬(a.venue = b.venue ∧ a.code = b.code)) ↔ (l.map Miss.pair).Nodup := by
  simp [List.Nodup, List.pairwise_map, Miss.pair]

/-- A miss notice keeps the law. -/
theorem Market.DirectoryLawful.notify {m : Market} (h : m.DirectoryLawful) :
    { m with directory := { m.directory with misses := markNotified m.directory.misses } }.DirectoryLawful := by
  refine { h with distinct := ?_, unmatched := fun a ha i e he => ?_ }
  · rw [distinct_iff_map_pair, markNotified_map_pair]
    exact distinct_iff_map_pair.mp h.distinct
  · have hp : a.pair ∈ m.directory.misses.map Miss.pair := markNotified_map_pair _ ▸ List.mem_map_of_mem ha
    obtain ⟨b, hb, hab⟩ := List.mem_map.mp hp
    obtain ⟨hv, hc⟩ := Prod.mk.inj hab
    exact hv ▸ hc ▸ h.unmatched b hb i e he

/-- Every elementary change keeps the law of the directory (R9, R22, R25, R26, R31). -/
theorem Market.Change.keeps_directoryLawful {m n : Market} (hc : m.Change n) (h : m.DirectoryLawful) : n.DirectoryLawful := by
  cases hc with
  | reset => exact reset_directoryLawful
  | defined slot => exact h.setRecord slot (fun _ => by simp [definedQuote])
  | cleared slot hn =>
    refine h.of_defined fun i e he hd => ?_
    rwa [Table.get_set_ne _ _ (Directory.names_eq_false.mp hn i e he)]
  | traded slot state _ hs => exact h.setRecord slot (fun _ => hs)
  | referenced slot => exact h.setRecord slot id
  | rolled => exact h.of_defined fun i e _ hd => by rwa [Table.get_map, rollQuote_state]
  | ticked slot it => exact h.setRecord slot (fun hd => by rwa [(applyItems_frame _ it _).1])
  | cooled slot => exact h.setRecord slot id
  | staged => exact { h with }
  | unstaged => exact { h with }
  | heated => exact { h with }
  | installed i e hslot hid => exact h.install i hslot hid
  | freed entries he => exact h.free he
  | missed venue code hm => exact h.miss hm
  | purged => exact { h with distinct := .nil, unmatched := nofun }
  | notified => exact h.notify

end Sys2Proof.Machine

open Sys2Proof Sys2Proof.Machine

/-- Settles O52: a step is a chain of elementary changes, and each keeps the law of every record. -/
theorem recordsStayLawful : Obligations.RecordsStayLawful := fun _ _ hs h =>
  State.recordsLawful_iff.mpr
    ((step_changes h).keeps (fun _ _ => Market.Change.keeps_recordsLawful) (State.recordsLawful_iff.mp hs))

/-- Settles O53: a step is a chain of elementary changes, and each keeps the directory unambiguous and the Miss List distinct and
unmatched. -/
theorem directoryStaysLawful : Obligations.DirectoryStaysLawful := fun _ _ hs h =>
  State.directoryLawful_iff.mpr
    ((step_changes h).keeps (fun _ _ => Market.Change.keeps_directoryLawful) (State.directoryLawful_iff.mp hs))
end

section
/-! SUPPORT. The check of every request agrees with the lengths and ranges that the catalogue lists: length first, then ranges. -/

namespace Sys2Proof.Machine

open Sys2Proof

/-! ### The values that the readers of a field accept -/

theorem inRange_eq_some {n m : Nat} {i : Fin n} (h : inRange n m = some i) : m < n := by
  unfold inRange at h
  split at h
  · assumption
  · cases h

theorem flagOf_eq_some {n : Nat} {b : Bool} (h : flagOf n = some b) : n ≤ 1 := by
  by_contra hn
  rw [flagOf_of_two_le (by omega)] at h
  cases h

theorem Format.ofCode_eq_some {n : Nat} {f : Format} (h : Format.ofCode n = some f) : n ≤ 10 ∧ n ≠ 7 := by
  unfold Format.ofCode at h
  split at h
  · omega
  · split at h
    · omega
    · split at h
      · omega
      · split at h
        · omega
        · cases h

theorem Item.ofCode_eq_some {n : Nat} {i : Item} (h : Item.ofCode n = some i) : i.code = n := by
  unfold Item.ofCode at h
  split at h <;> cases h <;> rfl

theorem Item.code_le (i : Item) : i.code ≤ 9 := by cases i <;> decide

theorem Item.eq_text_iff {i : Item} : i = .text ↔ i.code = 9 := by cases i <;> decide

theorem Placement.ofCode_eq_some {n : Nat} {x : Placement} (h : Placement.ofCode n = some x) : n ≤ 0x10 := by
  unfold Placement.ofCode at h
  split at h
  · omega
  · split at h
    · omega
    · cases h

theorem Shows.ofCode_eq_some {n : Nat} {x : Shows} (h : Shows.ofCode n = some x) : n ≤ 0x11 := by
  unfold Shows.ofCode at h
  split at h
  · omega
  · split at h
    · omega
    · split at h
      · omega
      · cases h

/-! ### What it is for a check to agree with the catalogue -/

/-- A check refuses a wrong length with BAD_LENGTH, and a field out of range in a payload of the right length with RANGE. -/
def ChecksAs {α : Type} (c : Instr) (parse : List Byte → Except Reason α) : Prop :=
  ∀ p, (lengthOk c p = false → parse p = .error .badLength)
    ∧ (lengthOk c p = true → rangeOk c p = false → parse p = .error .range)

/-- A check that tests its length first agrees with the catalogue when its length does and its remaining test refuses what is out
of range. -/
theorem checksAs_of_if {α : Type} {c : Instr} {parse fields : List Byte → Except Reason α} {bad : List Byte → Prop}
    [DecidablePred bad] (hparse : ∀ p, parse p = if bad p then .error .badLength else fields p)
    (hlen : ∀ p, lengthOk c p = true ↔ ¬bad p) (hrange : ∀ p, ¬bad p → rangeOk c p = false → fields p = .error .range) :
    ChecksAs c parse := by
  refine fun p => ⟨fun h => ?_, fun h hr => ?_⟩
  · have hb : bad p := by
      by_contra hb
      rw [(hlen p).mpr hb] at h
      cases h
    rw [hparse, if_pos hb]
  · have hb := (hlen p).mp h
    rw [hparse, if_neg hb, hrange p hb hr]

theorem carrying_of_offers {s : State} {kind : Byte} {p : List Byte} (h : s.Offers kind p) : s.carrying = .idle := h.2.1

theorem owed_of_offers {s : State} {kind : Byte} {p : List Byte} (h : s.Offers kind p) : s.owed = none := h.2.2.2.2

/-- A request whose check agrees with the catalogue is refused as the catalogue says (R7, R173). -/
theorem request_checks {α : Type} {c : Instr} {kind : Byte} {parse : List Byte → Except Reason α} {work : α → State → State}
    {s : State} {p : List Byte} (h : s.Offers kind p) (hc : ChecksAs c parse) (hx : exec c s = request kind parse work s) :
    (lengthOk c p = false → exec c s = .next (s.answered (.reject kind .badLength)))
      ∧ (lengthOk c p = true → rangeOk c p = false → exec c s = .next (s.answered (.reject kind .range))) :=
  ⟨fun hl => hx ▸ request_error h ((hc p).1 hl), fun hl hr => hx ▸ request_error h ((hc p).2 hl hr)⟩

/-- While none is being carried out, or one has only its answer still to be placed, a RELEASE is a request like the others. -/
theorem execRelease_eq_request {s : State} (h : s.carrying = .idle ∨ ∃ r, s.carrying = .answering r) (n : Nat) :
    execRelease n s = request Kind.release noFields (fun _ => continueRelease n 0 0) s := by
  rcases h with h | ⟨r, h⟩ <;> rw [execRelease, h]

/-- While none is being carried out, or one has only its answer still to be placed, a STATUS is a request like the others. -/
theorem execStatus_eq_request {s : State} (h : s.carrying = .idle ∨ ∃ r, s.carrying = .answering r) (n : Nat) :
    execStatus n s = request Kind.status noFields (fun _ => continueStatus n 0 StatusReply.blank) s := by
  rcases h with h | ⟨r, h⟩ <;> rw [execStatus, h]

/-! ### The check of each request -/

/-- A request with no fields. -/
theorem noFields_checks {c : Instr} (hlen : ∀ p, lengthOk c p = decide (p.length = 0)) (hrange : ∀ p, rangeOk c p = true) :
    ChecksAs c noFields := by
  refine fun p => ⟨fun h => ?_, fun _ hr => ?_⟩
  · rw [hlen, decide_eq_false_iff_not] at h
    rw [noFields, if_neg h]
  · rw [hrange] at hr
    cases hr

/-- CLEAR, HALT, RESUME and QUERY. -/
theorem slotOnly_checks {c : Instr} (hlen : ∀ p, lengthOk c p = decide (p.length = 2))
    (hrange : ∀ p, rangeOk c p = decide (fieldAt p 0 2 ≤ 511)) : ChecksAs c slotOnly := by
  refine checksAs_of_if (fun _ => rfl) (fun p => by simp [hlen]) (fun p _ hr => ?_)
  rw [hrange, decide_eq_false_iff_not] at hr
  rw [inRange_of_le (by omega)]
  rfl

/-- WATCH, BLINK, PAINT and TAPESPEED. -/
theorem oneClamped_checks {c : Instr} {lo hi : Nat} (hlen : ∀ p, lengthOk c p = decide (p.length = 1))
    (hrange : ∀ p, rangeOk c p = true) : ChecksAs c (oneClamped lo hi) := by
  refine checksAs_of_if (fun _ => rfl) (fun p => by simp [hlen]) (fun p _ hr => ?_)
  rw [hrange] at hr
  cases hr

/-- UNMAP and MPROBE. -/
theorem indexOnly_checks {c : Instr} (hlen : ∀ p, lengthOk c p = decide (p.length = 1)) (hrange : ∀ p, rangeOk c p = true) :
    ChecksAs c indexOnly := by
  refine checksAs_of_if (fun _ => rfl) (fun p => by simp [hlen]) (fun p _ hr => ?_)
  rw [hrange] at hr
  cases hr

theorem parseDefine_checks : ChecksAs .define parseDefine := by
  refine checksAs_of_if (fun _ => rfl) (fun p => by simp [lengthOk]) (fun p _ hr => ?_)
  simp only [rangeOk, decide_eq_false_iff_not] at hr
  split
  · rename_i hslot hformat
    have hs := inRange_eq_some hslot
    have hf := Format.ofCode_eq_some hformat
    refine if_neg fun hsym => hr ⟨by omega, ?_, hsym⟩
    simp only [List.mem_cons, List.not_mem_nil, or_false]
    omega
  · rfl

theorem parseSetref_checks : ChecksAs .setref parseSetref := by
  refine checksAs_of_if (fun _ => rfl) (fun p => by simp [lengthOk]) (fun p _ hr => ?_)
  simp only [rangeOk, decide_eq_false_iff_not] at hr
  split
  · rename_i hslot hflag
    exact absurd ⟨Nat.le_of_lt_succ (inRange_eq_some hslot), flagOf_eq_some hflag⟩ hr
  · rename_i hslot hflag
    exact absurd ⟨Nat.le_of_lt_succ (inRange_eq_some hslot), flagOf_eq_some hflag⟩ hr
  · rfl

theorem parseInstall_checks : ChecksAs .install parseInstall := by
  refine checksAs_of_if (fun _ => rfl) (fun p => by simp [lengthOk]) (fun p _ hr => ?_)
  simp only [rangeOk, decide_eq_false_iff_not] at hr
  split
  · rename_i hvenue hany hslot
    exact absurd ⟨Nat.le_of_lt_succ (inRange_eq_some hvenue), flagOf_eq_some hany,
      Nat.le_of_lt_succ (inRange_eq_some hslot)⟩ hr
  · rfl

theorem parseRemove_checks : ChecksAs .remove parseRemove := by
  refine checksAs_of_if (fun _ => rfl) (fun p => by simp [lengthOk]) (fun p _ hr => ?_)
  simp only [rangeOk, decide_eq_false_iff_not] at hr
  split
  · rename_i hvenue hany
    exact absurd ⟨Nat.le_of_lt_succ (inRange_eq_some hvenue), flagOf_eq_some hany⟩ hr
  · rfl

theorem parseDflush_checks : ChecksAs .dflush parseDflush := by
  refine checksAs_of_if (fun _ => rfl) (fun p => by simp [lengthOk]) (fun p _ hr => ?_)
  simp only [rangeOk, decide_eq_false_iff_not, not_or] at hr
  rw [inRange_of_le (by omega)]
  dsimp only
  rw [if_neg (by omega), if_neg hr.2]

theorem parseDprobe_checks : ChecksAs .dprobe parseDprobe := by
  refine checksAs_of_if (fun _ => rfl) (fun p => by simp [lengthOk]) (fun p _ hr => ?_)
  simp only [rangeOk, decide_eq_false_iff_not] at hr
  rw [inRange_of_le (by omega)]

/-- The length that the five assigned bits of a mask ask for. -/
theorem tickLength_eq (mask : Nat) : tickLength mask =
    7 + (if mask.testBit 0 then 8 else 0) + (if mask.testBit 1 then 4 else 0) + (if mask.testBit 2 then 4 else 0)
      + (if mask.testBit 3 then 4 else 0) + (if mask.testBit 4 then 4 else 0) := by
  simp [tickLength, valuesBefore, bitAt, List.range_succ, Nat.add_assoc]

theorem parseTick_checks : ChecksAs .tick parseTick := by
  refine checksAs_of_if (fun _ => rfl) (fun p => by simp [lengthOk, tickLength_eq]) (fun p _ hr => ?_)
  simp only [rangeOk, decide_eq_false_iff_not] at hr
  split
  · rfl
  · rename_i hvenue
    have hv := inRange_eq_some hvenue
    exact if_pos (by omega)

theorem parseMap_checks : ChecksAs .map parseMap := by
  refine checksAs_of_if (fun _ => rfl) (fun p => by simp [lengthOk]) (fun p _ hr => ?_)
  simp only [rangeOk, decide_eq_false_iff_not] at hr
  split
  · rename_i item _ _ hplacement hitem hpalette hsteady
    have hp := Placement.ofCode_eq_some hplacement
    have hi := Item.ofCode_eq_some hitem
    have hs := inRange_eq_some hpalette
    have hf := flagOf_eq_some hsteady
    have hi9 := item.code_le
    refine if_neg fun hok => hr ?_
    simp only [Item.eq_text_iff, hi] at hok
    omega
  · rfl

theorem parseMflush_checks : ChecksAs .mflush parseMflush := by
  refine checksAs_of_if (fun _ => rfl) (fun p => by simp [lengthOk]) (fun p _ hr => ?_)
  simp only [rangeOk, decide_eq_false_iff_not, not_or] at hr
  rw [inRange_of_le (by omega)]
  dsimp only
  rw [if_neg (by omega), if_neg hr.2]

theorem parseMfind_checks : ChecksAs .mfind parseMfind := by
  refine checksAs_of_if (fun _ => rfl) (fun p => by simp [lengthOk]) (fun p _ hr => ?_)
  simp only [rangeOk, decide_eq_false_iff_not] at hr
  split
  · rename_i item _ hslot hitem hboard
    have hs := inRange_eq_some hslot
    have hb := inRange_eq_some hboard
    have hi := Item.ofCode_eq_some hitem
    have hi9 := item.code_le
    exact if_pos (Item.eq_text_iff.mpr (by omega))
  · rfl

theorem parseSettext_checks : ChecksAs .settext parseSettext := by
  refine checksAs_of_if (fun _ => rfl) (fun p => by simp only [lengthOk, decide_eq_true_eq]; omega) (fun p _ hr => ?_)
  simp only [rangeOk, decide_eq_false_iff_not] at hr
  split
  · exact if_neg hr
  · rfl

theorem parseSetattr_checks : ChecksAs .setattr parseSetattr := by
  refine checksAs_of_if (fun _ => rfl) (fun p => by simp [lengthOk]) (fun p _ hr => ?_)
  simp only [rangeOk, decide_eq_false_iff_not] at hr
  split
  · rename_i ha hfg hbg hblink hunderline
    exact absurd ⟨Nat.le_of_lt_succ (inRange_eq_some ha), Nat.le_of_lt_succ (inRange_eq_some hfg),
      Nat.le_of_lt_succ (inRange_eq_some hbg), flagOf_eq_some hblink, flagOf_eq_some hunderline⟩ hr
  · rfl

theorem parseSetpal_checks : ChecksAs .setpal parseSetpal := by
  refine checksAs_of_if (fun _ => rfl) (fun p => by simp [lengthOk]) (fun p _ hr => ?_)
  simp only [rangeOk, decide_eq_false_iff_not] at hr
  split
  · rename_i hset hcls hattr
    exact absurd ⟨Nat.le_of_lt_succ (inRange_eq_some hset), Nat.le_of_lt_succ (inRange_eq_some hcls),
      Nat.le_of_lt_succ (inRange_eq_some hattr)⟩ hr
  · rfl

theorem parseHeatcfg_checks : ChecksAs .heatcfg parseHeatcfg := by
  refine checksAs_of_if (fun _ => rfl) (fun p => by simp [lengthOk]) (fun p _ hr => ?_)
  simp only [rangeOk, decide_eq_false_iff_not] at hr
  split
  · rename_i henabled hperiod hlimit
    exact absurd ⟨flagOf_eq_some henabled, Nat.le_of_lt_succ (inRange_eq_some hperiod),
      Nat.le_of_lt_succ (inRange_eq_some hlimit)⟩ hr
  · rfl

theorem parseBand_checks : ChecksAs .band parseBand := by
  refine checksAs_of_if (fun _ => rfl) (fun p => by simp [lengthOk]) (fun p _ hr => ?_)
  simp only [rangeOk, decide_eq_false_iff_not] at hr
  split
  · rename_i hband hsize hbackground
    have hk := inRange_eq_some hband
    have hs := inRange_eq_some hsize
    have hb := inRange_eq_some hbackground
    exact if_neg fun hrows => hr (by omega)
  · rfl

theorem parseShow_checks : ChecksAs .showBand parseShow := by
  refine checksAs_of_if (fun _ => rfl) (fun p => by simp [lengthOk]) (fun p _ hr => ?_)
  simp only [rangeOk, decide_eq_false_iff_not] at hr
  split
  · rename_i hband htarget
    exact absurd ⟨Nat.le_of_lt_succ (inRange_eq_some hband), Shows.ofCode_eq_some htarget⟩ hr
  · rfl

theorem parseTapetext_checks : ChecksAs .tapetext parseTapetext := by
  refine checksAs_of_if (fun _ => rfl) (fun p => by simp only [lengthOk, decide_eq_true_eq]; omega) (fun p _ hr => ?_)
  simp only [rangeOk, decide_eq_false_iff_not] at hr
  exact if_neg hr

end Sys2Proof.Machine

open Sys2Proof Sys2Proof.Machine

/-- Settles O3: the check of each request agrees with the catalogue, and a request so checked is refused accordingly. -/
theorem lengthAndRangeChecks : Obligations.LengthAndRangeChecks := by
  intro s c kind p hk h
  cases c with
  | reset => cases hk; exact request_checks h (noFields_checks (fun _ => rfl) (fun _ => rfl)) rfl
  | status n =>
    cases hk
    exact request_checks h (noFields_checks (fun _ => rfl) (fun _ => rfl)) (execStatus_eq_request (.inl (carrying_of_offers h)) n)
  | define => cases hk; exact request_checks h parseDefine_checks rfl
  | clear => cases hk; exact request_checks h (slotOnly_checks (fun _ => rfl) (fun _ => rfl)) rfl
  | halt => cases hk; exact request_checks h (slotOnly_checks (fun _ => rfl) (fun _ => rfl)) rfl
  | resume => cases hk; exact request_checks h (slotOnly_checks (fun _ => rfl) (fun _ => rfl)) rfl
  | setref => cases hk; exact request_checks h parseSetref_checks rfl
  | openDay => cases hk; exact request_checks h (noFields_checks (fun _ => rfl) (fun _ => rfl)) rfl
  | query => cases hk; exact request_checks h (slotOnly_checks (fun _ => rfl) (fun _ => rfl)) rfl
  | install => cases hk; exact request_checks h parseInstall_checks rfl
  | remove => cases hk; exact request_checks h parseRemove_checks rfl
  | dflush => cases hk; exact request_checks h parseDflush_checks rfl
  | dprobe => cases hk; exact request_checks h parseDprobe_checks rfl
  | mpurge => cases hk; exact request_checks h (noFields_checks (fun _ => rfl) (fun _ => rfl)) rfl
  | tick => cases hk; exact request_checks h parseTick_checks rfl
  | release n =>
    cases hk
    exact request_checks h (noFields_checks (fun _ => rfl) (fun _ => rfl)) (execRelease_eq_request (.inl (carrying_of_offers h)) n)
  | discard => cases hk; exact request_checks h (noFields_checks (fun _ => rfl) (fun _ => rfl)) rfl
  | heartbeat => cases hk; exact request_checks h (noFields_checks (fun _ => rfl) (fun _ => rfl)) rfl
  | watch => cases hk; exact request_checks h (oneClamped_checks (fun _ => rfl) (fun _ => rfl)) rfl
  | map => cases hk; exact request_checks h parseMap_checks rfl
  | unmap => cases hk; exact request_checks h (indexOnly_checks (fun _ => rfl) (fun _ => rfl)) rfl
  | mflush => cases hk; exact request_checks h parseMflush_checks rfl
  | mprobe => cases hk; exact request_checks h (indexOnly_checks (fun _ => rfl) (fun _ => rfl)) rfl
  | mfind => cases hk; exact request_checks h parseMfind_checks rfl
  | settext => cases hk; exact request_checks h parseSettext_checks rfl
  | setattr => cases hk; exact request_checks h parseSetattr_checks rfl
  | setpal => cases hk; exact request_checks h parseSetpal_checks rfl
  | heatcfg => cases hk; exact request_checks h parseHeatcfg_checks rfl
  | blink => cases hk; exact request_checks h (oneClamped_checks (fun _ => rfl) (fun _ => rfl)) rfl
  | band => cases hk; exact request_checks h parseBand_checks rfl
  | showBand => cases hk; exact request_checks h parseShow_checks rfl
  | paint => cases hk; exact request_checks h (oneClamped_checks (fun _ => rfl) (fun _ => rfl)) rfl
  | tapetext => cases hk; exact request_checks h parseTapetext_checks rfl
  | tapespeed => cases hk; exact request_checks h (oneClamped_checks (fun _ => rfl) (fun _ => rfl)) rfl
  | _ => cases hk
end

section
/-! SUPPORT. The requests of the Instrument Table, the probes, and the values and laws of the machine after reset. -/

namespace Sys2Proof.Machine

open Sys2Proof

/-! ### The requests that write one record -/

/-- A record is written, its items are marked, and the request is answered (R6, R173). -/
theorem State.record_written (slot : Slot) (q : Quote) {items : List Item} (hn : items.Nodup) (r : Record) (s : State) :
    ((s.takeHead.setRecord slot q).markItems slot items).reply r =
      ((s.setRecord slot q).queued (s.newlyShowing slot items)).answered r := by
  rw [State.markItems_eq _ _ _ hn]
  rfl

/-- HALT and RESUME on an EMPTY record, and on a defined one (R10). -/
theorem tradingWork_takeHead (kind : Byte) (state : RecState) (slot : Slot) (s : State) :
    tradingWork kind state slot s.takeHead =
      if (s.records.get slot).state = .empty then s.answered (.reject kind .badState)
      else ((s.setRecord slot { s.records.get slot with state := state }).queued
        (s.newlyShowing slot [.sym, .last, .net, .pct])).answered (.ack kind slot.val) := by
  rw [← State.record_written slot _ (by decide)]
  rfl

/-- The roll of a record, field by field (R12). -/
theorem rollQuote_eq (q : Quote) : rollQuote q =
    if q.state = .empty then q
    else ⟨q.state, q.symbol, q.format, none, q.last.or q.reference, none, none, none, none, 0, 0, .none⟩ := by
  unfold rollQuote
  cases q.last <;> rfl

/-! ### The probes -/

/-- Where the directory is lawful, the lookup finds whichever entry matches the pair (R22, R29, R41). -/
theorem State.DirectoryLawful.find_eq_some {s : State} (hlaw : s.DirectoryLawful) {venue : Venue} {code : Code} {i : DirIx}
    {e : DirEntry} (he : s.directory.entries.get i = some e) (hc : e.covers venue code = true) :
    s.directory.find venue code = some (i, e) :=
  Directory.find_eq_some he hc (fun j x hx hcx => hlaw.unambiguous j i x e venue code hx he hcx hc)

theorem describe_free {found : Bool} {index : Nat} {e : Field} (h : e.state = .free) :
    describe found index e = describe found index Field.free := by
  rw [describe, if_pos h]
  rfl

theorem findable_iff {slot : Slot} {item : Item} {board : BoardIx} {f : Field} :
    findable slot item board f = true ↔ f.state = .live ∧ f.slot = some slot ∧ f.item = item
      ∧ (f.placement = .board board ∨ f.placement = .common) := by
  simp [findable, showsItem, and_assoc]

/-- Two entries on one board or in COMMON can appear in the same band (R84). -/
theorem canMeet_of_board {board : BoardIx} {a b : Placement} (ha : a = .board board ∨ a = .common)
    (hb : b = .board board ∨ b = .common) : canMeet a b = true := by
  rcases ha with rfl | rfl <;> rcases hb with rfl | rfl <;> simp [canMeet]

/-- The one entry that an MFIND can find, where the layout is lawful (R84, R96). -/
theorem findReply_of_match {s : State} (hlaw : s.LayoutLawful) {slot : Slot} {item : Item} {board : BoardIx} {i : EntryIx}
    (hitem : item ≠ .text) (hi : findable slot item board (s.fields.get i) = true) :
    findReply s.fields slot item board = describe true i.val (s.fields.get i) := by
  have hlow : s.fields.lowest (findable slot item board) = some i := by
    refine Table.lowest_eq_some.mpr ⟨hi, fun j hj => Bool.eq_false_iff.mpr fun hjf => ?_⟩
    obtain ⟨his, hislot, hiitem, hip⟩ := findable_iff.mp hi
    obtain ⟨hjs, hjslot, hjitem, hjp⟩ := findable_iff.mp hjf
    exact hlaw.items j i hj.ne hjs his (canMeet_of_board hjp hip) (hjitem ▸ hitem)
      ⟨hjslot.trans hislot.symm, hjitem.trans hiitem.symm⟩
  rw [findReply, hlow]

theorem findReply_of_no_match {fields : Table 256 Field} {slot : Slot} {item : Item} {board : BoardIx}
    (h : ∀ i, findable slot item board (fields.get i) = false) :
    findReply fields slot item board =
      { describe false 0 Field.free with slot := slot.val, item := item.code, placement := board.val } := by
  rw [findReply, Table.lowest_eq_none.mpr h]

theorem describe_used {found : Bool} {index : Nat} {e : Field} (h : e.state ≠ .free) : describe found index e =
    { found := found, index := index, state := if e.state = .live then 1 else 2, placement := e.placement.code
      slot := match e.slot with | some slot => slot.val | none => 0xFFFF
      item := e.item.code, row := e.row, column := e.column, width := e.width, palette := e.palette.val
      steady := e.steady, dirty := e.dirty, unpainted := e.unpainted.list, text := e.text } := by
  have hstate : e.state.code = if e.state = .live then 1 else 2 := by
    cases hs : e.state with
    | free => exact absurd hs h
    | live => rfl
    | erasing => rfl
  rw [describe, if_neg h, hstate] <;> rfl

/-- A DPROBE is answered with what the lookup finds (R29). -/
theorem execDprobe_of_offers {s : State} {venue : Venue} {code : Code}
    (h : s.Offers 0x13 (beBytes 1 venue.val ++ beBytes 4 code.toNat)) :
    exec .dprobe s = .next (s.answered (.dentry (dentryReply s.directory venue code))) := by
  refine (request_ok h (parse_dprobe venue code)).trans ?_
  rfl

/-- An MPROBE is answered with the entry (R95). -/
theorem execMprobe_of_offers {s : State} {i : EntryIx} (h : s.Offers 0x23 (beBytes 1 i.val)) :
    exec .mprobe s = .next (s.answered (.field (describe true i.val (s.fields.get i)))) := by
  refine (request_ok h (parse_index i)).trans ?_
  rfl

/-- An MFIND is answered with what it finds (R96). -/
theorem execMfind_of_offers {s : State} {slot : Slot} {item : Item} {board : BoardIx} (hitem : item ≠ .text)
    (h : s.Offers 0x24 (beBytes 2 slot.val ++ beBytes 1 item.code ++ beBytes 1 board.val)) :
    exec .mfind s = .next (s.answered (.field (findReply s.fields slot item board))) := by
  refine (request_ok h (parse_mfind slot item board hitem)).trans ?_
  rfl

/-! ### The machine right after reset -/

@[simp] theorem reset_fields_get (i : EntryIx) : State.reset.fields.get i = Field.free := Table.get_replicate _ _
@[simp] theorem reset_bands_get (k : BandIx) : State.reset.bands.get k = Band.reset := Table.get_replicate _ _
@[simp] theorem reset_palettes_get (set : SetIx) : State.reset.colour.palettes.get set = paletteReset := Table.get_replicate _ _
@[simp] theorem free_unpainted_get (k : BandIx) : Field.free.unpainted.get k = false := Table.get_replicate _ _

theorem paletteReset_get (cls : Fin 14) : (paletteReset.get cls).val = cls.val := by
  revert cls
  decide

theorem free_state : Field.free.state = .free := rfl
theorem free_dirty : Field.free.dirty = false := rfl

theorem reset_queuesLawful : State.reset.QueuesLawful where
  inbound := Nat.zero_le _
  outbound := Nat.zero_le _
  placeKept _ := by decide
  sweepAlone _ _ _ := rfl
  staging := Nat.zero_le _
  misses := Nat.zero_le _
  quiet _ := ⟨rfl, rfl, rfl, rfl, rfl, rfl, rfl, rfl, rfl, rfl⟩

theorem reset_dirtyLawful : State.reset.DirtyLawful where
  nodup := .nil
  marks i := by
    rw [reset_fields_get, free_dirty]
    exact ⟨nofun, nofun⟩
  erasing i h := by
    rw [reset_fields_get] at h
    cases h
  free i _ := by rw [reset_fields_get, free_dirty]
  taking _ _ h := nomatch h

theorem reset_curtainsLawful : State.reset.CurtainsLawful where
  marks i k h := by
    rw [reset_fields_get, free_unpainted_get] at h
    cases h
  counts k := by
    rw [Table.count_eq, reset_bands_get]
    simp [Band.reset]
  curtained k b h := by
    rw [reset_bands_get] at h
    cases h
  others k _ := by
    rw [reset_bands_get]
    exact ⟨rfl, rfl⟩
  unused k _ := by
    rw [reset_bands_get]
    exact ⟨rfl, rfl⟩

theorem reset_bandsLawful : State.reset.BandsLawful where
  onScreen k := by
    rw [reset_bands_get]
    decide
  apart j k row _ _ := by
    rw [reset_bands_get]
    simp [holdsRow, Band.reset]
  boards j k b h := by
    rw [reset_bands_get] at h
    cases h
  oneTape j k h := by
    rw [reset_bands_get] at h
    cases h
  tapeSize k h := by
    rw [reset_bands_get] at h
    cases h

theorem reset_layoutLawful : State.reset.LayoutLawful where
  ranges i h := absurd (by rw [reset_fields_get, free_state]) h
  cells i j _ h := by
    rw [reset_fields_get] at h
    cases h
  items i j _ h := by
    rw [reset_fields_get] at h
    cases h

theorem reset_tapeLawful : State.reset.TapeLawful where
  queue := Nat.zero_le _
  ring := Nat.zero_le _
  empty _ := ⟨rfl, rfl⟩
  offset := Nat.zero_le _
  speed := by decide

theorem reset_settingsLawful : State.reset.SettingsLawful where
  watch := trivial
  position := by decide
  budget := by decide
  blink := by decide
  blinkCount := by decide

end Sys2Proof.Machine

open Sys2Proof Sys2Proof.Machine

/-- Settles O14: the record of a DEFINE is written and the nine items are marked. -/
theorem defineGivesInstrument : Obligations.DefineGivesInstrument := by
  intro s slot format symbol h1 h8 h
  refine (request_ok h (parse_define slot format symbol h1 h8)).trans (congrArg _ ?_)
  rw [defineWork]
  exact State.record_written slot _ slotItems_nodup _ s

/-- Settles O15, by whether a valid entry names the slot. -/
theorem clearEmptiesSlot : Obligations.ClearEmptiesSlot := by
  refine fun s slot h => ⟨fun ⟨i, e, he, hs⟩ => ?_, fun hn => ?_⟩
  · have hnames : s.directory.names slot = true := by
      by_contra hno
      exact Directory.names_eq_false.mp (Bool.not_eq_true _ ▸ hno) i e he hs
    refine (request_ok h (parse_slotOnly slot)).trans (congrArg _ ?_)
    rw [clearWork, State.takeHead_directory, if_pos hnames]
    rfl
  · have hnames : s.directory.names slot = false := Directory.names_eq_false.mpr hn
    refine (request_ok h (parse_slotOnly slot)).trans (congrArg _ ?_)
    rw [clearWork, State.takeHead_directory, hnames]
    exact State.record_written slot _ slotItems_nodup _ s

/-- Settles O16: HALT and RESUME are one operation with another kind and state. -/
theorem haltAndResume : Obligations.HaltAndResume := by
  intro s slot c kind state hc h
  have hx : exec c s = .next (tradingWork kind state slot s.takeHead) := by
    simp only [List.mem_cons, Prod.mk.injEq, List.not_mem_nil, or_false] at hc
    rcases hc with ⟨rfl, rfl, rfl⟩ | ⟨rfl, rfl, rfl⟩
    · exact request_ok h (parse_slotOnly slot)
    · exact request_ok h (parse_slotOnly slot)
  rw [hx, tradingWork_takeHead]
  exact ⟨fun he => by rw [if_pos he], fun he => by rw [if_neg he]⟩

/-- Settles O17, by whether the record is EMPTY. -/
theorem setrefSetsReference : Obligations.SetrefSetsReference := by
  intro s slot present price hp h
  have hx := request_ok (work := setrefWork) h (parse_setref slot present price hp)
  refine ⟨fun he => hx.trans (congrArg _ ?_), fun he => hx.trans (congrArg _ ?_)⟩
  · rw [setrefWork, State.takeHead_records, if_pos he]
    rfl
  · rw [setrefWork, State.takeHead_records, if_neg he]
    exact State.record_written slot _ (by decide) _ s

/-- Settles O18: the roll of every record, and the sweep of the entries that are not TEXT. -/
theorem openDayRollsRecords : Obligations.OpenDayRollsRecords := by
  intro s h
  have hroll : s.records.map rollQuote = Table.ofFn (fun slot =>
      if (s.records.get slot).state = RecState.empty then s.records.get slot
      else ⟨(s.records.get slot).state, (s.records.get slot).symbol, (s.records.get slot).format, none,
        (s.records.get slot).last.or (s.records.get slot).reference, none, none, none, none, 0, 0, .none⟩) := by
    apply Table.ext_get
    intro slot
    rw [Table.get_map, Table.get_ofFn, rollQuote_eq]
  refine (request_ok h (a := ()) rfl).trans (congrArg _ ?_)
  rw [openDayWork, State.markWhere_eq, ← hroll]
  rfl

/-- Settles O20, probe by probe: the laws of the directory and of the layout leave one entry to be found. -/
theorem probesAnswer : Obligations.ProbesAnswer := by
  refine ⟨fun s slot h => request_ok h (parse_slotOnly slot), fun s venue code hlaw h => ?_, fun s i h => ?_,
    fun s slot item board hlaw hitem h => ?_⟩
  · rw [execDprobe_of_offers h, dentryReply]
    refine ⟨fun i e he hcode hvenue => ?_, fun hno => ?_⟩
    · rw [hlaw.find_eq_some he (DirEntry.covers_iff.mpr ⟨hcode, hvenue⟩)]
    · have hf : s.directory.find venue code = none := Directory.find_eq_none.mpr
        fun i e he => Bool.eq_false_iff.mpr fun hc => hno i e he (DirEntry.covers_iff.mp hc)
      rw [hf]
  · rw [execMprobe_of_offers h]
    refine ⟨fun hfree => ?_, fun hused => ?_⟩
    · rw [describe_free hfree]
      rfl
    · exact congrArg (fun r => Host.Outcome.next (s.answered (.field r))) (describe_used hused)
  · rw [execMfind_of_offers hitem h]
    refine ⟨fun i hs hslot hi hp => ?_, fun hno => ?_⟩
    · rw [findReply_of_match hlaw hitem (findable_iff.mpr ⟨hs, hslot, hi, hp⟩)]
    · rw [findReply_of_no_match fun i => Bool.eq_false_iff.mpr fun hf => ?_]
      · rfl
      · obtain ⟨hs, hslot, hi, hp⟩ := findable_iff.mp hf
        exact hno i hs hslot hi hp

/-- Settles O5, block by block. -/
theorem resetValues : Obligations.ResetValues := by
  refine ⟨reset_records_get, reset_entries_get, rfl, rfl, rfl, fun i => ?_, rfl, rfl, fun set cls => ?_, rfl, rfl, rfl, rfl,
    reset_bands_get, rfl, rfl, rfl, rfl, rfl, rfl, rfl, rfl, rfl, rfl, rfl, rfl, rfl⟩
  · rw [reset_fields_get]
    exact ⟨rfl, rfl, free_unpainted_get⟩
  · rw [reset_palettes_get]
    exact paletteReset_get cls

/-- Settles O59, law by law. -/
theorem resetIsLawful : Obligations.ResetIsLawful :=
  ⟨reset_queuesLawful, State.recordsLawful_iff.mpr reset_recordsLawful, State.directoryLawful_iff.mpr reset_directoryLawful,
    reset_dirtyLawful, reset_curtainsLawful, reset_bandsLawful, reset_layoutLawful, reset_tapeLawful, reset_settingsLawful⟩
end

section
/-! SUPPORT. A TICK that hits, and the requests that are made in parts. -/

namespace Sys2Proof.Machine

open Sys2Proof

/-! ### A TICK that hits (R41, R43, R46) -/

theorem State.reloaded_takeHead (s : State) : s.takeHead.reloaded = s.reloaded.takeHead := by
  unfold State.reloaded
  rw [State.takeHead_intake]
  cases s.intake.watch <;> rfl

theorem State.reloaded_directory (s : State) : s.reloaded.directory = s.directory :=
  s.reloadFeed_eq ▸ congrArg Market.directory s.reloadFeed_market

theorem State.reloaded_staging (s : State) : s.reloaded.intake.staging = s.intake.staging :=
  s.reloadFeed_eq ▸ congrArg Market.staging s.reloadFeed_market

/-- A TICK whose lookup hits reloads the Feed Watch and is disposed of as a hit. -/
theorem tickWork_of_find {r : TickReq} {s : State} {i : DirIx} {e : DirEntry}
    (h : s.directory.find r.venue r.code = some (i, e)) : tickWork r s = s.reloaded.disposeHit e.slot r := by
  rw [tickWork, State.reloadFeed_eq, State.reloaded_directory, h]

/-- The step of a TICK of items that fit, whose pair an entry of a lawful directory matches. -/
theorem execTick_of_match {s : State} {venue : Venue} {code : Code} {flags : Byte} {spare : Fin 8} {it : TickItems} {i : DirIx}
    {e : DirEntry} (hlaw : s.DirectoryLawful) (hfits : it.Fits) (hmask : it.mask ≠ 0)
    (h : s.Offers 0x18 (tickBytes venue code flags spare it)) (he : s.directory.entries.get i = some e)
    (hc : e.covers venue code = true) :
    exec .tick s = .next (s.reloaded.takeHead.disposeHit e.slot
      ⟨venue, code, flags.getLsbD 0, flags.getLsbD 1, it.saturated⟩) := by
  refine (request_ok h (parse_tick venue code flags spare it hfits hmask)).trans (congrArg _ ?_)
  rw [tickWork_of_find (s := s.takeHead) (hlaw.find_eq_some he hc), State.reloaded_takeHead]

theorem State.disposeHit_apply {r : TickReq} (h : r.hold = false) (slot : Slot) (s : State) :
    s.disposeHit slot r = s.applied slot r.tape r.items := by
  rw [State.disposeHit, if_pos h, State.applyAndPrint_eq]

theorem State.disposeHit_stage {r : TickReq} {s : State} (h : r.hold = true) (hroom : s.intake.staging.length < Config.stagingCapacity)
    (slot : Slot) : s.disposeHit slot r =
      { s with intake := { s.intake with staging := s.intake.staging ++ [⟨slot, r.tape, r.items⟩] } } := by
  rw [State.disposeHit, if_neg (by simp [h]), if_pos hroom]

theorem State.disposeHit_full {r : TickReq} {s : State} (h : r.hold = true) (hfull : Config.stagingCapacity ≤ s.intake.staging.length)
    (slot : Slot) : s.disposeHit slot r = s.reject Kind.tick .stageFull := by
  rw [State.disposeHit, if_neg (by simp [h]), if_neg (not_lt.mpr hfull)]

/-! ### A STATUS in two parts (R178) -/

/-- The state with what is being carried out written. -/
def State.withCarrying (c : Carrying) (s : State) : State := { s with carrying := c }

@[simp] theorem State.withCarrying_records (c : Carrying) (s : State) : (s.withCarrying c).records = s.records := rfl
@[simp] theorem State.withCarrying_intake (c : Carrying) (s : State) : (s.withCarrying c).intake = s.intake := rfl
@[simp] theorem State.withCarrying_mayTake (c : Carrying) (s : State) : (s.withCarrying c).mayTake = s.mayTake := rfl
@[simp] theorem State.withCarrying_tapeShown (c : Carrying) (s : State) : (s.withCarrying c).tapeShown = s.tapeShown := rfl

/-- The reply after at most `n` more reads than the `done` first, with nothing between them. -/
def StatusReply.readOn (s : State) (done n : Nat) (r : StatusReply) : StatusReply :=
  (List.range' done (min n (statusReads - done))).foldl (fun acc k => readStatus s k acc) r

/-- A STATUS ends when all its reads are made, and otherwise holds where it stands. -/
theorem continueStatus_eq (n done : Nat) (r : StatusReply) (s : State) : continueStatus n done r s =
    if statusReads ≤ done + n then (s.withCarrying .idle).reply (.status (r.readOn s done n))
    else s.withCarrying (.status (done + n) (r.readOn s done n)) := rfl

/-- Reads made in two parts are the reads made together. -/
theorem StatusReply.readOn_add {n : Nat} (hn : n ≤ statusReads) (m : Nat) (r : StatusReply) (s : State) :
    (r.readOn s 0 n).readOn s n m = r.readOn s 0 (n + m) := by
  have h1 : min n (statusReads - 0) = n := by omega
  have h2 : min (n + m) (statusReads - 0) = n + min m (statusReads - n) := by omega
  simp only [StatusReply.readOn, h1, h2, ← List.foldl_append]
  congr 1
  simpa using List.range'_append_1 (s := 0) (m := n) (n := min m (statusReads - n))

/-- The part of a STATUS that does not make all its reads. -/
theorem continueStatus_of_lt {n : Nat} (h : n < statusReads) (r : StatusReply) (s : State) :
    continueStatus n 0 r s = s.withCarrying (.status n (r.readOn s 0 n)) := by
  rw [continueStatus_eq, if_neg (by omega), Nat.zero_add]

/-- No read of a STATUS is of what is being carried out, and its end overwrites it. -/
theorem continueStatus_withCarrying (n done : Nat) (r : StatusReply) (c : Carrying) (s : State) :
    continueStatus n done r (s.withCarrying c) = continueStatus n done r s := rfl

/-- A STATUS goes on where its first part has stopped, and ends as it would have whole. -/
theorem continueStatus_split {n : Nat} (h : n < statusReads) (m : Nat) (r : StatusReply) (s : State) :
    continueStatus m n (r.readOn s 0 n) (continueStatus n 0 r s) = continueStatus (n + m) 0 r s := by
  rw [continueStatus_of_lt h, continueStatus_withCarrying, continueStatus_eq, continueStatus_eq, StatusReply.readOn_add h.le,
    Nat.zero_add]

/-! ### A RELEASE in two parts (R50) -/

/-- No answer is owed: nothing is, or lookups are. -/
def State.OwesNoAnswer (s : State) : Prop := ∀ set attr, s.owed ≠ some (.sweep set attr)

theorem owesNoAnswer_of_owed_none {s : State} (h : s.owed = none) : s.OwesNoAnswer := by
  intro set attr
  rw [h]
  nofun

theorem State.markItems_withCarrying (slot : Slot) (items : List Item) (c : Carrying) (s : State) :
    (s.withCarrying c).markItems slot items = (s.markItems slot items).withCarrying c := by
  induction items generalizing s with
  | nil => rfl
  | cons a items ih =>
    have hmark : (s.withCarrying c).markWhere (showsItem slot a) = (s.markWhere (showsItem slot a)).withCarrying c := by
      rw [State.markWhere_eq, State.markWhere_eq]
      rfl
    calc (s.withCarrying c).markItems slot (a :: items)
        = ((s.withCarrying c).markWhere (showsItem slot a)).markItems slot items := rfl
      _ = ((s.markWhere (showsItem slot a)).markItems slot items).withCarrying c := by rw [hmark, ih]

theorem State.settled_withCarrying {s : State} (h : s.OwesNoAnswer) (c : Carrying) :
    (s.withCarrying c).settled = s.settled.withCarrying c := by
  have hs : (s.withCarrying c).settled = match s.owed with
      | some m => ({ s with owed := none }.withCarrying c).carryOut m
      | none => s.withCarrying c := rfl
  rw [hs, State.settled]
  cases ho : s.owed with
  | none => rfl
  | some m =>
    cases m with
    | lookups slot items => exact State.markItems_withCarrying slot items c _
    | sweep set attr => exact absurd ho (h set attr)

theorem State.handOver_lookups_withCarrying (slot : Slot) (items : List Item) (c : Carrying) (s : State) :
    (s.withCarrying c).handOver (.lookups slot items) = (s.handOver (.lookups slot items)).withCarrying c := by
  unfold State.handOver
  rw [State.withCarrying_mayTake]
  split
  · rfl
  · exact s.markItems_withCarrying slot items c

theorem State.offerPrint_withCarrying (slot : Slot) (tape : Bool) (it : TickItems) (c : Carrying) (s : State) :
    (s.withCarrying c).offerPrint slot tape it = (s.offerPrint slot tape it).withCarrying c := by
  unfold State.offerPrint
  rw [State.withCarrying_tapeShown]
  split
  · split <;> rfl
  · rfl

/-- The application of a tick does not see which request is being carried out. -/
theorem State.applyAndPrint_withCarrying {s : State} (h : s.OwesNoAnswer) (slot : Slot) (tape : Bool) (it : TickItems)
    (c : Carrying) : (s.withCarrying c).applyAndPrint slot tape it = (s.applyAndPrint slot tape it).withCarrying c := by
  rw [State.applyAndPrint, State.applyTick, State.settled_withCarrying h]
  rw [State.applyAndPrint, State.applyTick, ← State.offerPrint_withCarrying, ← State.handOver_lookups_withCarrying]
  rfl

/-- The marks of a tick are lookups, at once or still to come. -/
theorem State.applyAndPrint_owesNoAnswer (slot : Slot) (tape : Bool) (it : TickItems) (s : State) :
    (s.applyAndPrint slot tape it).OwesNoAnswer := by
  have hprint : ∀ u : State, (u.offerPrint slot tape it).owed = u.owed := by
    intro u
    unfold State.offerPrint
    split
    · split <;> rfl
    · rfl
  intro set attr
  rw [State.applyAndPrint, hprint, State.applyTick]
  unfold State.handOver
  split
  · nofun
  · obtain ⟨new, hq⟩ := State.markItems_queued slot (tickMarks it (s.records.get slot))
      (s.settled.setRecord slot (applyItems s.colour.flashHeat it (s.records.get slot)))
    rw [State.carryOut, hq]
    simp

/-- Dealing with staged entries does not see which request is being carried out. -/
theorem releaseEntries_withCarrying (l : List Staged) (applied : Nat) {s : State} (h : s.OwesNoAnswer) (c : Carrying) :
    releaseEntries l applied (s.withCarrying c) =
      ((releaseEntries l applied s).1, (releaseEntries l applied s).2.withCarrying c) := by
  induction l generalizing applied s with
  | nil => rfl
  | cons e l ih =>
    simp only [releaseEntries]
    rw [State.withCarrying_records]
    split
    · exact ih applied h
    · rw [State.applyAndPrint_withCarrying h]
      exact ih _ (s.applyAndPrint_owesNoAnswer _ _ _)

theorem releaseEntries_staging (l : List Staged) (applied : Nat) (s : State) :
    (releaseEntries l applied s).2.intake.staging = s.intake.staging := by
  induction l generalizing applied s with
  | nil => rfl
  | cons e l ih =>
    unfold releaseEntries
    split
    · exact ih _ _
    · rw [ih, State.applyAndPrint_staging]

theorem releaseEntries_owesNoAnswer (l : List Staged) (applied : Nat) {s : State} (h : s.OwesNoAnswer) :
    (releaseEntries l applied s).2.OwesNoAnswer := by
  induction l generalizing applied s with
  | nil => exact h
  | cons e l ih =>
    unfold releaseEntries
    split
    · exact ih _ h
    · exact ih _ (s.applyAndPrint_owesNoAnswer _ _ _)

/-- Staged entries dealt with in two runs. -/
theorem releaseEntries_append (l m : List Staged) (applied : Nat) (s : State) :
    releaseEntries (l ++ m) applied s = releaseEntries m (releaseEntries l applied s).1 (releaseEntries l applied s).2 := by
  induction l generalizing applied s with
  | nil => rfl
  | cons e l ih =>
    simp only [List.cons_append, releaseEntries]
    split <;> exact ih _ _

/-- Where a RELEASE stands when so many of the list's entries are dealt with: it ends with the last, where no marks are still to
come, and otherwise holds. -/
def endOrHold (total dealt : Nat) (done : Nat × State) : State :=
  if total ≤ dealt ∧ done.2.owed = none then done.2.endRelease done.1 else done.2.withCarrying (.release dealt done.1)

/-- A RELEASE with entries left to deal with. -/
theorem continueRelease_of_lt {dealt : Nat} {s : State} (h : dealt < s.intake.staging.length) (n applied : Nat) :
    continueRelease n dealt applied s = endOrHold s.intake.staging.length (dealt + n)
      (releaseEntries ((s.intake.staging.drop dealt).take n) applied s) := by
  rw [continueRelease, if_neg (not_le.mpr h)]
  rfl

theorem endOrHold_of_lt {total dealt : Nat} (h : dealt < total) (done : Nat × State) :
    endOrHold total dealt done = done.2.withCarrying (.release dealt done.1) := if_neg fun hend => by omega

/-- The end of a RELEASE, or its holding, overwrites what was being carried out. -/
theorem endOrHold_withCarrying (total dealt : Nat) (done : Nat × State) (c : Carrying) :
    endOrHold total dealt (done.1, done.2.withCarrying c) = endOrHold total dealt done := rfl

/-- The part of a RELEASE that leaves entries to deal with holds where it stands. -/
theorem continueRelease_first {n : Nat} {s : State} (h : n < s.intake.staging.length) :
    continueRelease n 0 0 s = (releaseEntries (s.intake.staging.take n) 0 s).2.withCarrying
      (.release n (releaseEntries (s.intake.staging.take n) 0 s).1) := by
  rw [continueRelease_of_lt (by omega), Nat.zero_add, List.drop_zero, endOrHold_of_lt h]

/-- A RELEASE goes on where its first part has stopped, and ends as it would have whole. -/
theorem continueRelease_split {n : Nat} {s : State} (hlt : n < s.intake.staging.length) (h : s.OwesNoAnswer) (m : Nat) :
    continueRelease m n (releaseEntries (s.intake.staging.take n) 0 s).1 (continueRelease n 0 0 s) =
      continueRelease (n + m) 0 0 s := by
  have hstaging := releaseEntries_staging (s.intake.staging.take n) 0 s
  have howes := releaseEntries_owesNoAnswer (s.intake.staging.take n) 0 h
  have happend := releaseEntries_append (s.intake.staging.take n) ((s.intake.staging.drop n).take m) 0 s
  rw [← List.take_add] at happend
  rw [continueRelease_first hlt, continueRelease_of_lt (dealt := 0) (by omega), Nat.zero_add, List.drop_zero, happend]
  generalize releaseEntries (s.intake.staging.take n) 0 s = first at hstaging howes ⊢
  rw [continueRelease_of_lt (hstaging ▸ hlt), State.withCarrying_intake, hstaging, releaseEntries_withCarrying _ _ howes,
    endOrHold_withCarrying]

/-! ### Marks still to come before the next change (R20, R60) -/

/-- To settle what is owed leaves what is being carried out, or leaves an answer still to be placed where nothing was. -/
theorem State.settled_carrying {s : State} (h : ∀ set attr, s.owed = some (.sweep set attr) → s.carrying = .idle) :
    s.settled.carrying = s.carrying ∨ (s.carrying = .idle ∧ ∃ r, s.settled.carrying = .answering r) := by
  unfold State.settled
  cases ho : s.owed with
  | none => exact .inl rfl
  | some m =>
    cases m with
    | lookups slot items =>
      obtain ⟨new, hq⟩ := State.markItems_queued slot items { s with owed := none }
      dsimp only
      rw [State.carryOut, hq]
      exact .inl rfl
    | sweep set attr =>
      have hidle := h set attr ho
      dsimp only
      rw [State.carryOut_sweep, State.reply_carrying]
      split
      · exact .inr ⟨hidle, _, rfl⟩
      · exact .inl rfl

/-- Where nothing but an answer still to be placed was being carried out, that is so after what is owed is settled. -/
theorem State.settled_free {s : State} (h : ∀ set attr, s.owed = some (.sweep set attr) → s.carrying = .idle)
    (hs : s.carrying = .idle ∨ ∃ r, s.carrying = .answering r) :
    s.settled.carrying = .idle ∨ ∃ r, s.settled.carrying = .answering r := by
  rcases State.settled_carrying h with he | ⟨-, hr⟩
  · exact he ▸ hs
  · exact .inr hr

/-- A RELEASE that takes its frame, or has only to end, finds the marks of the change before it carried out. -/
theorem execRelease_settled {s : State} (h : ∀ set attr, s.owed = some (.sweep set attr) → s.carrying = .idle)
    (hend : ∀ dealt applied, s.carrying = .release dealt applied → s.intake.staging.length ≤ dealt) (n : Nat) :
    execRelease n s = execRelease n s.settled := by
  by_cases hfree : s.carrying = .idle ∨ ∃ r, s.carrying = .answering r
  · rw [execRelease_eq_request hfree, execRelease_eq_request (State.settled_free h hfree), request_settled]
  · have hcarry : s.settled.carrying = s.carrying :=
      (State.settled_carrying h).resolve_right fun hr => hfree (.inl hr.1)
    unfold execRelease
    rw [hcarry]
    cases hc : s.carrying with
    | idle => exact absurd (.inl hc) hfree
    | answering r => exact absurd (.inr ⟨r, hc⟩) hfree
    | release dealt applied =>
      have hd := hend dealt applied hc
      simp only [continueRelease, State.settled_intake, if_pos hd, State.settled_settled]
    | status reads reply => simp only [State.settled_settled]

/-- A STATUS finds the marks of the change before it carried out. -/
theorem execStatus_settled {s : State} (h : ∀ set attr, s.owed = some (.sweep set attr) → s.carrying = .idle) (n : Nat) :
    execStatus n s = execStatus n s.settled := by
  by_cases hfree : s.carrying = .idle ∨ ∃ r, s.carrying = .answering r
  · rw [execStatus_eq_request hfree, execStatus_eq_request (State.settled_free h hfree), request_settled]
  · have hcarry : s.settled.carrying = s.carrying :=
      (State.settled_carrying h).resolve_right fun hr => hfree (.inl hr.1)
    unfold execStatus
    rw [hcarry]
    cases hc : s.carrying with
    | idle => exact absurd (.inl hc) hfree
    | answering r => exact absurd (.inr ⟨r, hc⟩) hfree
    | release dealt applied => simp only [State.settled_settled]
    | status reads reply => simp only [State.settled_settled]

/-- A frame of an unknown kind finds the marks of the change before it carried out. -/
theorem execUnknownKind_settled (s : State) : execUnknownKind s = execUnknownKind s.settled := by
  have hready : s.settled.ready = s.ready := by rw [State.ready, State.ready, State.settled_settled]
  unfold execUnknownKind
  rw [hready]

/-- A step that settles what is owed does so once. -/
theorem next_settled (f : State → State) (s : State) :
    (.next (f s.settled) : Host.Outcome State Fault Refusal) = .next (f s.settled.settled) := by
  rw [State.settled_settled]

/-- Every step but a taking and those of the Link Interface's own. -/
def SettlesFirst (c : Instr) : Prop :=
  (requestKind c).isSome = true ∨ c ∈ [.unknownKind, .feedWatchExpiry, .heatScanStep, .frameStart, .rasterReading]
    ∨ ∃ k, c = .bandClear k ∨ c = .curtainRelease k

/-- Every such step first carries out the marks that are still to come. -/
theorem exec_settled {c : Instr} {s : State} (hc : SettlesFirst c)
    (hend : (∃ n, c = .release n) → ∀ dealt applied, s.carrying = .release dealt applied → s.intake.staging.length ≤ dealt)
    (h : ∀ set attr, s.owed = some (.sweep set attr) → s.carrying = .idle) : exec c s = exec c s.settled := by
  cases c with
  | reset => exact request_settled _ _ _ s
  | status n => exact execStatus_settled h n
  | define => exact request_settled _ _ _ s
  | clear => exact request_settled _ _ _ s
  | halt => exact request_settled _ _ _ s
  | resume => exact request_settled _ _ _ s
  | setref => exact request_settled _ _ _ s
  | openDay => exact request_settled _ _ _ s
  | query => exact request_settled _ _ _ s
  | install => exact request_settled _ _ _ s
  | remove => exact request_settled _ _ _ s
  | dflush => exact request_settled _ _ _ s
  | dprobe => exact request_settled _ _ _ s
  | mpurge => exact request_settled _ _ _ s
  | tick => exact request_settled _ _ _ s
  | release n => exact execRelease_settled h (hend ⟨n, rfl⟩) n
  | discard => exact request_settled _ _ _ s
  | heartbeat => exact request_settled _ _ _ s
  | watch => exact request_settled _ _ _ s
  | map => exact request_settled _ _ _ s
  | unmap => exact request_settled _ _ _ s
  | mflush => exact request_settled _ _ _ s
  | mprobe => exact request_settled _ _ _ s
  | mfind => exact request_settled _ _ _ s
  | settext => exact request_settled _ _ _ s
  | setattr => exact request_settled _ _ _ s
  | setpal => exact request_settled _ _ _ s
  | heatcfg => exact request_settled _ _ _ s
  | blink => exact request_settled _ _ _ s
  | band => exact request_settled _ _ _ s
  | showBand => exact request_settled _ _ _ s
  | paint => exact request_settled _ _ _ s
  | tapetext => exact request_settled _ _ _ s
  | tapespeed => exact request_settled _ _ _ s
  | unknownKind => exact execUnknownKind_settled s
  | feedWatchExpiry => exact next_settled State.expire s
  | heatScanStep => exact next_settled State.scanStep s
  | frameStart => exact next_settled State.startFrame s
  | rasterReading => exact next_settled State.readFrame s
  | bandClear k => exact next_settled (State.clearStep k) s
  | curtainRelease k => exact next_settled (State.releaseStep k) s
  | _ => simp [SettlesFirst, requestKind] at hc

end Sys2Proof.Machine

open Sys2Proof Sys2Proof.Machine

/-- Settles O25: the lookup finds the matching entry, and the disposal is by the HOLD flag and the room in the Staging List. -/
theorem tickHits : Obligations.TickHits := by
  refine ⟨fun s venue code flags spare it i e hlaw hfits hmask hhold h he hcode hvenue => ?_,
    fun s venue code flags spare it i e hlaw hfits hmask hhold h he hcode hvenue => ?_⟩
  · rw [execTick_of_match hlaw hfits hmask h he (DirEntry.covers_iff.mpr ⟨hcode, hvenue⟩), State.disposeHit_apply hhold]
  · have hx := execTick_of_match hlaw hfits hmask h he (DirEntry.covers_iff.mpr ⟨hcode, hvenue⟩)
    have hst : s.reloaded.takeHead.intake.staging = s.intake.staging := s.reloaded_staging
    refine ⟨fun hroom => hx.trans ?_, fun hfull => hx.trans ?_⟩
    · rw [State.disposeHit_stage hhold (hst ▸ hroom), hst]
      rfl
    · rw [State.disposeHit_full hhold (hst ▸ hfull)]
      rfl

/-- Settles O13: the two requests in parts, the marks before the next change, and what carrying out marks does. -/
theorem splitRequestsMatchWhole : Obligations.SplitRequestsMatchWhole := by
  refine ⟨⟨fun s n m h hlt => ?_, fun s n m h hlt => ?_⟩, fun s c hc hend hidle => exec_settled hc hend hidle,
    fun s => State.settled_of_none, fun s u slot items hn ho hu => ?_, fun s u set attr ho hu => ?_⟩
  · have hx : ∀ k, exec (.release k) s = .next (continueRelease k 0 0 s.takeHead) := fun k =>
      (execRelease_eq_request (.inl (carrying_of_offers h)) k).trans (request_ok h (a := ()) rfl)
    have howed : s.owed = none := owed_of_offers h
    have hfirst := continueRelease_first (s := s.takeHead) hlt
    refine ⟨_, hx n, ?_⟩
    rw [hx (n + m), ← continueRelease_split (s := s.takeHead) hlt (owesNoAnswer_of_owed_none (s := s.takeHead) howed) m, hfirst]
    rfl
  · have hx : ∀ k, exec (.status k) s = .next (continueStatus k 0 StatusReply.blank s.takeHead) := fun k =>
      (execStatus_eq_request (.inl (carrying_of_offers h)) k).trans (request_ok h (a := ()) rfl)
    have howed : s.owed = none := owed_of_offers h
    refine ⟨_, hx n, ?_⟩
    rw [hx (n + m), ← continueStatus_split hlt, continueStatus_of_lt hlt]
    exact congrArg (fun t => Host.Outcome.next (continueStatus m n _ t))
      (State.settled_of_none (s := s.takeHead.withCarrying _) howed)
  · rw [State.settled, ho, hu]
    exact State.carryOut_lookups _ hn
  · rw [State.settled, ho, hu]
    exact State.carryOut_sweep set attr _
end

section
/-! SUPPORT. The parts of the state that the bounds of the queues speak of, and the operations that leave them alone. -/

namespace Sys2Proof.Machine

open Sys2Proof

/-! ### The parts -/

/-- The Link Interface, the request carried out, the marks still to come, Quote Intake and the Miss List. -/
structure Queues where
  link : Link
  carrying : Carrying
  owed : Option Marks
  intake : Intake
  misses : List Miss

/-- These parts of a state. -/
def State.queues (s : State) : Queues := ⟨s.link, s.carrying, s.owed, s.intake, s.directory.misses⟩

/-- States with the same such parts, part by part. -/
theorem State.queues_inj {s t : State} (h : t.queues = s.queues) :
    t.link = s.link ∧ t.carrying = s.carrying ∧ t.owed = s.owed ∧ t.intake = s.intake
      ∧ t.directory.misses = s.directory.misses := by
  simpa [State.queues] using h

/-- A walk whose every step leaves these parts alone leaves them alone. -/
theorem State.foldl_queues {α : Type} {f : State → α → State} (h : ∀ s a, (f s a).queues = s.queues) (l : List α) (s : State) :
    (l.foldl f s).queues = s.queues := by
  induction l generalizing s with
  | nil => rfl
  | cons a l ih => rw [List.foldl_cons, ih, h]

/-! ### Records and marks -/

@[simp] theorem State.setRecord_queues (slot : Slot) (q : Quote) (s : State) : (s.setRecord slot q).queues = s.queues := rfl
@[simp] theorem State.queued_queues (new : List EntryIx) (s : State) : (s.queued new).queues = s.queues := rfl

@[simp] theorem State.markEntry_queues (s : State) (i : EntryIx) : (s.markEntry i).queues = s.queues := by
  rw [State.markEntry_eq, State.queued_queues]

@[simp] theorem State.markWhere_queues (p : Field → Bool) (s : State) : (s.markWhere p).queues = s.queues := by
  rw [State.markWhere_eq, State.queued_queues]

@[simp] theorem State.markItems_queues (slot : Slot) (items : List Item) (s : State) :
    (s.markItems slot items).queues = s.queues := by
  obtain ⟨new, h⟩ := State.markItems_queued slot items s
  rw [h, State.queued_queues]

@[simp] theorem State.offerPrint_queues (slot : Slot) (tape : Bool) (items : TickItems) (s : State) :
    (s.offerPrint slot tape items).queues = s.queues := by
  unfold State.offerPrint
  split
  · split <;> rfl
  · rfl

/-! ### The Field Map and the Band Table -/

@[simp] theorem State.setWork_queues (w : PaintWork) (s : State) : (s.setWork w).queues = s.queues := rfl
@[simp] theorem State.updateWork_queues (s : State) : s.updateWork.queues = s.queues := rfl
@[simp] theorem State.setCells_queues (c : CellStore) (s : State) : (s.setCells c).queues = s.queues := rfl
@[simp] theorem State.modifyBand_queues (k : BandIx) (f : Band → Band) (s : State) : (s.modifyBand k f).queues = s.queues := rfl
@[simp] theorem State.clearMarksFor_queues (k : BandIx) (s : State) : (s.clearMarksFor k).queues = s.queues := rfl
@[simp] theorem State.makeFree_queues (i : EntryIx) (s : State) : (s.makeFree i).queues = s.queues := rfl

@[simp] theorem State.setUnpainted_queues (k : BandIx) (s : State) (i : EntryIx) : (s.setUnpainted k i).queues = s.queues := by
  unfold State.setUnpainted
  split <;> rfl

@[simp] theorem State.clearUnpainted_queues (i : EntryIx) (s : State) (k : BandIx) :
    (s.clearUnpainted i k).queues = s.queues := by
  rw [State.clearUnpainted_eq]
  rfl

@[simp] theorem State.refreshBand_queues (k : BandIx) (s : State) : (s.refreshBand k).queues = s.queues := by
  rw [State.refreshBand_eq]
  rfl

@[simp] theorem State.freeEntry_queues (s : State) (i : EntryIx) : (s.freeEntry i).queues = s.queues := by
  rw [State.freeEntry_eq]
  rfl

@[simp] theorem State.eraseEntry_queues (i : EntryIx) (s : State) : (s.eraseEntry i).queues = s.queues := by
  rw [State.eraseEntry, State.clearMarksOf_eq]
  rfl

@[simp] theorem State.holdCurtain_queues (i : EntryIx) (s : State) (k : BandIx) : (s.holdCurtain i k).queues = s.queues := by
  unfold State.holdCurtain
  split <;> simp

@[simp] theorem State.placeEntry_queues (i : EntryIx) (f : Field) (s : State) : (s.placeEntry i f).queues = s.queues := by
  rw [State.placeEntry, State.markEntry_queues, State.foldl_queues (State.holdCurtain_queues i)]
  rfl

@[simp] theorem State.leaveTape_queues (shown : Shows) (s : State) : (s.leaveTape shown).queues = s.queues := by
  unfold State.leaveTape
  split <;> rfl

@[simp] theorem State.settleBand_queues (k : BandIx) (height : Nat) (shown : Shows) (s : State) :
    (s.settleBand k height shown).queues = s.queues := by
  unfold State.settleBand State.freeBand
  split
  · simp
  · split <;> simp

@[simp] theorem State.stealFrom_queues (k : BandIx) (target : Shows) (s : State) (j : BandIx) :
    (s.stealFrom k target j).queues = s.queues := by
  unfold State.stealFrom
  split <;> simp

@[simp] theorem State.stealBoard_queues (k : BandIx) (target : Shows) (s : State) :
    (s.stealBoard k target).queues = s.queues := by
  cases target with
  | nothing => rfl
  | board b => exact State.foldl_queues (State.stealFrom_queues k _) allBands s
  | tape => rfl

@[simp] theorem State.leaveBoard_queues (k : BandIx) (s : State) : (s.leaveBoard k).queues = s.queues := by
  unfold State.leaveBoard
  split <;> simp

@[simp] theorem State.takeTarget_queues (k : BandIx) (target : Shows) (s : State) :
    (s.takeTarget k target).queues = s.queues := by
  unfold State.takeTarget
  split
  · simp
  · simp
  · split <;> simp

/-! ### The Painter and the Raster -/

@[simp] theorem State.clearBand_queues (k : BandIx) (s : State) : (s.clearBand k).queues = s.queues := by
  unfold State.clearBand
  dsimp only
  split
  · rw [State.sweepBand_eq]
    rfl
  · rfl
  · rfl

@[simp] theorem State.clearStep_queues (k : BandIx) (s : State) : (s.clearStep k).queues = s.queues := by
  unfold State.clearStep
  split
  · split <;> simp
  · rfl
  · rfl
  · rfl

@[simp] theorem State.writeInto_queues (i : EntryIx) (chars : List (Byte × AttrIx)) (s : State) (k : BandIx) :
    (s.writeInto i chars k).queues = s.queues := by
  unfold State.writeInto
  dsimp only
  split <;> simp

@[simp] theorem State.eraseFrom_queues (f : Field) (s : State) (k : BandIx) : (s.eraseFrom f k).queues = s.queues := by
  unfold State.eraseFrom
  split <;> simp

@[simp] theorem State.dealWith_queues (i : EntryIx) (s : State) : (s.dealWith i).1.queues = s.queues := by
  unfold State.dealWith
  dsimp only
  split
  · exact State.foldl_queues (State.writeInto_queues i _) allBands s
  · rfl
  · exact State.foldl_queues (State.eraseFrom_queues _) allBands s
  · rfl
  · rfl

@[simp] theorem State.takeOne_queues (budget counted : Nat) (s : State) : (s.takeOne budget counted).queues = s.queues := by
  unfold State.takeOne State.takeEntry
  split
  · rfl
  · split
    · rfl
    · simp only [State.updateWork_queues, State.setWork_queues, State.dealWith_queues]
      rfl

theorem execTaking_queues {s t : State} (h : execTaking s = .next t) : t.queues = s.queues := by
  unfold execTaking at h
  split at h
  · split at h <;> cases h <;> simp
  · cases h
    exact s.takeOne_queues _ _
  · cases h
    rfl
  · cases h
    rfl

@[simp] theorem State.releaseStep_queues (k : BandIx) (s : State) : (s.releaseStep k).queues = s.queues := by
  unfold State.releaseStep
  split
  · split <;> simp
  · rfl

@[simp] theorem State.startFrame_queues (s : State) : s.startFrame.queues = s.queues := by
  unfold State.startFrame
  split
  · split <;> rfl
  · rfl

@[simp] theorem State.readFrame_queues (s : State) : s.readFrame.queues = s.queues := by
  unfold State.readFrame
  split <;> rfl

/-! ### Marks handed over and carried out (R60, R109) -/

/-- To settle where no answer is owed is to owe nothing more. -/
theorem State.settled_queues {s : State} (h : s.OwesNoAnswer) : s.settled.queues = { s.queues with owed := none } := by
  cases ho : s.owed with
  | none => simp only [State.settled_of_none ho, State.queues, ho]
  | some m =>
    rw [State.settled, ho]
    cases m with
    | lookups slot items => exact State.markItems_queues slot items { s with owed := none }
    | sweep set attr => exact absurd ho (h set attr)

/-- Lookups handed over are carried out or owed. -/
theorem State.handOver_lookups_queues (slot : Slot) (items : List Item) (s : State) :
    (s.handOver (.lookups slot items)).queues = s.queues
      ∨ (s.handOver (.lookups slot items)).queues = { s.queues with owed := some (.lookups slot items) } := by
  unfold State.handOver
  split
  · exact .inr rfl
  · exact .inl (s.markItems_queues slot items)

/-- A Heat Scan's visit hands lookups over at most. -/
theorem State.visit_queues (slot : Slot) (s : State) :
    (s.visit slot).queues = s.queues ∨ ∃ items, (s.visit slot).queues = { s.queues with owed := some (.lookups slot items) } := by
  unfold State.visit
  dsimp only
  split
  · exact .inl rfl
  · split
    · exact .inl rfl
    · exact (State.handOver_lookups_queues slot [.last] _).imp_right fun h => ⟨_, h⟩

/-- The application of a tick where no answer is owed changes what is owed at most. -/
theorem State.applyAndPrint_queues {s : State} (h : s.OwesNoAnswer) (slot : Slot) (tape : Bool) (it : TickItems) :
    ∃ owed, (s.applyAndPrint slot tape it).queues = { s.queues with owed := owed } := by
  rw [State.applyAndPrint, State.offerPrint_queues, State.applyTick]
  rcases State.handOver_lookups_queues slot (tickMarks it (s.records.get slot))
    (s.settled.setRecord slot (applyItems s.colour.flashHeat it (s.records.get slot))) with e | e
  · exact ⟨none, by rw [e, State.setRecord_queues, State.settled_queues h]⟩
  · exact ⟨_, by rw [e, State.setRecord_queues, State.settled_queues h]⟩

/-! ### Requests that answer and leave these parts alone otherwise -/

/-- A request's work leaves the parts alone, and answers. -/
def State.Answers (s t : State) : Prop := ∃ (u : State) (r : Record), u.queues = s.queues ∧ t = u.reply r

theorem State.answers_reply {s u : State} (h : u.queues = s.queues) (r : Record) : s.Answers (u.reply r) := ⟨u, r, h, rfl⟩

theorem defineWork_answers (r : DefineReq) (s : State) : s.Answers (defineWork r s) :=
  State.answers_reply (by rw [State.markItems_queues, State.setRecord_queues]) _

theorem clearWork_answers (slot : Slot) (s : State) : s.Answers (clearWork slot s) := by
  unfold clearWork
  split
  · exact State.answers_reply rfl _
  · exact State.answers_reply (by rw [State.markItems_queues, State.setRecord_queues]) _

theorem tradingWork_answers (kind : Byte) (state : RecState) (slot : Slot) (s : State) :
    s.Answers (tradingWork kind state slot s) := by
  unfold tradingWork
  split
  · exact State.answers_reply rfl _
  · exact State.answers_reply (by rw [State.markItems_queues, State.setRecord_queues]) _

theorem setrefWork_answers (r : Slot × Option Nat) (s : State) : s.Answers (setrefWork r s) := by
  unfold setrefWork
  split
  · exact State.answers_reply rfl _
  · exact State.answers_reply (by rw [State.markItems_queues, State.setRecord_queues]) _

theorem openDayWork_answers (s : State) : s.Answers (openDayWork () s) :=
  State.answers_reply (State.markWhere_queues _ { s with records := s.records.map rollQuote }) _

theorem removeWork_answers (r : Venue × Bool × Code) (s : State) : s.Answers (removeWork r s) := by
  unfold removeWork
  split
  · exact State.answers_reply (by rfl) _
  · exact State.answers_reply rfl _

theorem bandWork_answers (r : BandReq) (s : State) : s.Answers (bandWork r s) := by
  unfold bandWork
  split
  · exact State.answers_reply rfl _
  · split
    · exact State.answers_reply rfl _
    · exact State.answers_reply (by simp) _

theorem showWork_answers (r : BandIx × Shows) (s : State) : s.Answers (showWork r s) := by
  unfold showWork
  split
  · exact State.answers_reply rfl _
  · refine State.answers_reply ?_ _
    split <;> simp

theorem mapWork_answers (f : Field) (s : State) : s.Answers (mapWork f s) := by
  unfold mapWork
  split
  · exact State.answers_reply rfl _
  · split
    · exact State.answers_reply rfl _
    · split
      · exact State.answers_reply rfl _
      · exact State.answers_reply (by simp) _

theorem unmapWork_answers (i : EntryIx) (s : State) : s.Answers (unmapWork i s) := by
  refine State.answers_reply ?_ _
  split
  · split <;> simp
  · rfl

theorem mflushWork_answers (g : FieldGroup) (s : State) : s.Answers (mflushWork g s) := by
  refine State.answers_reply ?_ _
  rw [State.updateWork_queues, State.foldl_queues (fun t k => t.refreshBand_queues k), State.foldl_queues State.freeEntry_queues]

theorem settextWork_answers (r : EntryIx × List Byte) (s : State) : s.Answers (settextWork r s) := by
  unfold settextWork
  split
  · exact State.answers_reply (State.markEntry_queues { s with fields := s.fields.modify r.1 (fun f => { f with text := r.2 }) } r.1) _
  · exact State.answers_reply rfl _

theorem tapetextWork_answers (text : List Byte) (s : State) : s.Answers (tapetextWork text s) := by
  unfold tapetextWork
  split
  · exact State.answers_reply rfl _
  · split <;> exact State.answers_reply (by rfl) _

end Sys2Proof.Machine
end

section
/-! SUPPORT. The bounds of the queues, lists and latches, kept by every command. -/

namespace Sys2Proof.Machine

open Sys2Proof

/-! ### Other states with the same queues -/

/-- The law speaks of the queues alone. -/
theorem State.QueuesLawful.of_queues {s t : State} (h : s.QueuesLawful) (e : t.queues = s.queues) : t.QueuesLawful := by
  obtain ⟨hl, hc, ho, hi, hm⟩ := State.queues_inj e
  exact {
    inbound := hl ▸ h.inbound
    outbound := hl ▸ h.outbound
    placeKept := by rw [hl, hc, ho]; exact h.placeKept
    sweepAlone := by rw [hc, ho]; exact h.sweepAlone
    staging := hi ▸ h.staging
    misses := hm ▸ h.misses
    quiet := by rw [hl, hc, ho, hi, hm]; exact h.quiet }

/-! ### While a request is carried out -/

/-- A request is being carried out, or could be: the part runs, a place is free for the answer, and no other answer is owed
(R173). -/
structure State.AtWork (s : State) : Prop where
  running : s.link.phase = .running
  inbound : s.link.inbound.length ≤ 8
  place : s.link.outbound.length < 16
  owesNoAnswer : s.OwesNoAnswer
  staging : s.intake.staging.length ≤ 32
  misses : s.directory.misses.length ≤ 8

theorem State.AtWork.of_queues {s t : State} (h : s.AtWork) (e : t.queues = s.queues) : t.AtWork := by
  obtain ⟨hl, -, ho, hi, hm⟩ := State.queues_inj e
  exact {
    running := hl ▸ h.running
    inbound := hl ▸ h.inbound
    place := hl ▸ h.place
    owesNoAnswer := by rw [State.OwesNoAnswer, ho]; exact h.owesNoAnswer
    staging := hi ▸ h.staging
    misses := hm ▸ h.misses }

theorem State.AtWork.queuesLawful {s : State} (h : s.AtWork) : s.QueuesLawful where
  inbound := h.inbound
  outbound := h.place.le
  placeKept _ := h.place
  sweepAlone set attr ho := absurd ho (h.owesNoAnswer set attr)
  staging := h.staging
  misses := h.misses
  quiet hq := absurd h.running hq

/-- The place kept takes the answer, now or later (R173, R177). -/
theorem State.AtWork.reply {s : State} (h : s.AtWork) (hidle : s.carrying = .idle) (r : Record) : (s.reply r).QueuesLawful := by
  cases hw : s.classWaits with
  | true =>
    rw [State.reply_of_classWaits r hw]
    exact { h.queuesLawful with
      placeKept := fun _ => h.place
      sweepAlone := fun set attr ho => absurd ho (h.owesNoAnswer set attr)
      quiet := fun hq => absurd h.running hq }
  | false =>
    rw [State.reply_of_not_classWaits r hw]
    have hplace := h.place
    exact { h.queuesLawful with
      outbound := by rw [State.place_link, List.length_append, List.length_singleton]; omega
      placeKept := by
        rintro (hc | ⟨set, attr, ho⟩)
        · exact absurd hidle hc
        · exact absurd ho (h.owesNoAnswer set attr)
      quiet := fun hq => absurd h.running hq }

theorem State.AtWork.of_answers {s t : State} (h : s.AtWork) (hidle : s.carrying = .idle) (ht : s.Answers t) :
    t.QueuesLawful := by
  obtain ⟨u, r, hu, rfl⟩ := ht
  exact (h.of_queues hu).reply ((State.queues_inj hu).2.1.trans hidle) r

/-- A request carried out between two steps, or an answer still to be placed, is at work. -/
theorem State.QueuesLawful.atWork {s : State} (h : s.QueuesLawful) (hc : s.carrying ≠ .idle) : s.AtWork where
  running := by
    by_contra hq
    obtain ⟨-, -, -, hidle, -⟩ := h.quiet hq
    exact hc hidle
  inbound := h.inbound
  place := h.placeKept (.inl hc)
  owesNoAnswer set attr ho := hc (h.sweepAlone set attr ho)
  staging := h.staging
  misses := h.misses

/-! ### Marks and answers still to come (R60, R109, R117, R177) -/

/-- Where nothing is owed any more. -/
theorem State.QueuesLawful.owingNone {s : State} (h : s.QueuesLawful) : { s with owed := none }.QueuesLawful :=
  { h with
    placeKept := by
      rintro (hc | ⟨set, attr, ho⟩)
      · exact h.placeKept (.inl hc)
      · cases ho
    sweepAlone := nofun
    quiet := fun hq =>
      let ⟨hin, hout, hr, hc, hb, ho, hf, hm, hw, _⟩ := h.quiet hq
      ⟨hin, hout, hr, hc, hb, ho, hf, hm, hw, rfl⟩ }

/-- Where a part that runs owes lookups. -/
theorem State.QueuesLawful.owingLookups {s : State} (h : s.QueuesLawful) (hrun : s.link.phase = .running) (slot : Slot)
    (items : List Item) : { s with owed := some (.lookups slot items) }.QueuesLawful :=
  { h with
    placeKept := by
      rintro (hc | ⟨set, attr, ho⟩)
      · exact h.placeKept (.inl hc)
      · cases ho
    sweepAlone := nofun
    quiet := fun hq => absurd hrun hq }

/-- Marks still to come are carried out: a SETPAL's answer takes the place kept for it. -/
theorem State.QueuesLawful.settled {s : State} (h : s.QueuesLawful) : s.settled.QueuesLawful := by
  by_cases ho : s.OwesNoAnswer
  · exact h.owingNone.of_queues (State.settled_queues ho)
  · obtain ⟨set, attr, ho⟩ : ∃ set attr, s.owed = some (.sweep set attr) := by simpa [State.OwesNoAnswer] using ho
    have hwork : { s with owed := none }.AtWork :=
      { running := by
          by_contra hq
          obtain ⟨-, -, -, -, -, -, -, -, -, hnone⟩ := h.quiet hq
          rw [ho] at hnone
          cases hnone
        inbound := h.inbound
        place := h.placeKept (.inr ⟨set, attr, ho⟩)
        owesNoAnswer := nofun
        staging := h.staging
        misses := h.misses }
    rw [State.settled, ho]
    dsimp only
    rw [State.carryOut_sweep]
    refine State.AtWork.reply ?_ ?_ _
    · exact hwork.of_queues rfl
    · exact h.sweepAlone set attr ho

/-- An answer still to be placed takes the place kept for it. -/
theorem State.QueuesLawful.placed {s : State} (h : s.QueuesLawful) : s.placed.QueuesLawful := by
  unfold State.placed
  cases hc : s.carrying with
  | idle => exact h
  | release dealt applied => exact h
  | status reads reply => exact h
  | answering r =>
    have hwork := h.atWork (by rw [hc]; nofun)
    have hplace := hwork.place
    exact { h with
      outbound := by rw [State.place_link, List.length_append, List.length_singleton]; exact hplace
      placeKept := by
        rintro (hidle | ⟨set, attr, ho⟩)
        · exact absurd rfl hidle
        · exact absurd ho (hwork.owesNoAnswer set attr)
      sweepAlone := fun _ _ _ => rfl
      quiet := fun hq => absurd hwork.running hq }

theorem State.QueuesLawful.ready {s : State} (h : s.QueuesLawful) : s.ready.QueuesLawful := h.settled.placed

theorem State.QueuesLawful.admissionMade {s : State} (h : s.QueuesLawful) : s.admissionMade.QueuesLawful := by
  unfold State.admissionMade
  split
  · exact h
  · exact h.placed

/-! ### The step of a request (R173) -/

theorem State.ready_owed (s : State) : s.ready.owed = none := by rw [State.ready, State.placed_owed, State.settled_owed]

/-- Where a frame can be taken, the Interpreter is at work on it. -/
theorem State.QueuesLawful.takeHead {s : State} (h : s.QueuesLawful) (ho : s.owed = none) (hcan : s.canTake = true) :
    s.takeHead.AtWork ∧ s.takeHead.carrying = .idle := by
  simp only [State.canTake, Bool.and_eq_true, decide_eq_true_eq] at hcan
  obtain ⟨⟨hrun, hidle⟩, hroom⟩ := hcan
  refine ⟨?_, hidle⟩
  exact {
    running := hrun
    inbound := (List.tail_sublist _).length_le.trans h.inbound
    place := hroom
    owesNoAnswer := owesNoAnswer_of_owed_none ho
    staging := h.staging
    misses := h.misses }

theorem State.canTake_of_headFrame {s : State} {f : LinkFrame} (h : s.headFrame = some f) : s.canTake = true := by
  unfold State.headFrame at h
  split at h
  · assumption
  · cases h

/-- The step of a request keeps the law where its work, once begun, ends in it. -/
theorem request_queuesLawful {α : Type} {kind : Byte} {parse : List Byte → Except Reason α} {work : α → State → State}
    {s t : State} (hw : ∀ a (u : State), u.AtWork → u.carrying = .idle → (work a u).QueuesLawful) (hs : s.QueuesLawful)
    (h : request kind parse work s = .next t) : t.QueuesLawful := by
  obtain rfl : s.ready.serve kind parse work = t := Host.Outcome.next.inj h
  unfold State.serve
  split
  · exact hs.ready
  · rename_i f hf
    obtain ⟨hwork, hidle⟩ := hs.ready.takeHead s.ready_owed (State.canTake_of_headFrame hf)
    split
    · split
      · exact hwork.reply hidle _
      · exact hw _ _ hwork hidle
    · exact hs.ready

/-- The step of a request whose work leaves the queues alone, and answers. -/
theorem request_answers_queuesLawful {α : Type} {kind : Byte} {parse : List Byte → Except Reason α} {work : α → State → State}
    {s t : State} (hw : ∀ a (u : State), u.Answers (work a u)) (hs : s.QueuesLawful)
    (h : request kind parse work s = .next t) : t.QueuesLawful :=
  request_queuesLawful (fun a u hu hidle => hu.of_answers hidle (hw a u)) hs h

theorem execUnknownKind_queuesLawful {s t : State} (hs : s.QueuesLawful) (h : execUnknownKind s = .next t) :
    t.QueuesLawful := by
  unfold execUnknownKind at h
  split at h
  · rename_i f hf
    obtain ⟨hwork, hidle⟩ := hs.ready.takeHead s.ready_owed (State.canTake_of_headFrame hf)
    split at h <;> cases h
    · exact hs.ready
    · exact hwork.reply hidle _
  · cases h
    exact hs.ready

/-! ### The requests that change the queues -/

theorem State.resetBlocks_queuesLawful (cause : ResetCause) (phase : Phase) (s : State) :
    (s.resetBlocks cause phase).QueuesLawful :=
  { reset_queuesLawful with quiet := fun _ => ⟨rfl, rfl, rfl, rfl, rfl, rfl, rfl, rfl, rfl, rfl⟩ }

theorem State.AtWork.withCarrying {s : State} (h : s.AtWork) (c : Carrying) : (s.withCarrying c).AtWork := { h with }

theorem State.AtWork.setWatch {s : State} (h : s.AtWork) (w : FeedWatch) : (s.setWatch w).AtWork := { h with }

theorem State.AtWork.feedChanged {s : State} (h : s.AtWork) : s.feedChanged.AtWork := by
  rw [State.feedChanged_eq]
  exact { h with }

theorem State.AtWork.reloadFeed {s : State} (h : s.AtWork) : s.reloadFeed.AtWork := by
  unfold State.reloadFeed
  split
  · exact h
  · exact h.setWatch _
  · exact (h.setWatch _).feedChanged

theorem State.feedChanged_carrying (s : State) : s.feedChanged.carrying = s.carrying := by
  rw [State.feedChanged_eq]
  rfl

theorem State.reloadFeed_carrying (s : State) : s.reloadFeed.carrying = s.carrying := by
  unfold State.reloadFeed
  split
  · rfl
  · rfl
  · exact State.feedChanged_carrying _

theorem State.AtWork.withStaging {s : State} (h : s.AtWork) {staging : List Staged} (hl : staging.length ≤ 32) :
    { s with intake := { s.intake with staging := staging } }.AtWork := { h with staging := hl }

theorem State.AtWork.withDirectory {s : State} (h : s.AtWork) {d : Directory} (hl : d.misses.length ≤ 8) :
    { s with directory := d }.AtWork := { h with misses := hl }

/-- The Miss List takes a pair only where it has room (R33). -/
theorem Directory.offerMiss_length {d : Directory} (h : d.misses.length ≤ 8) (venue : Venue) (code : Code) :
    (d.offerMiss venue code).misses.length ≤ 8 := by
  unfold Directory.offerMiss
  split
  · exact h
  · split
    · rename_i hroom
      rw [List.length_append, List.length_singleton]
      exact hroom
    · exact h

theorem markNotified_length (l : List Miss) : (markNotified l).length = l.length := by
  have h := congrArg List.length (markNotified_map_pair l)
  rwa [List.length_map, List.length_map] at h

theorem installWork_queuesLawful (e : DirEntry) {s : State} (h : s.AtWork) (hidle : s.carrying = .idle) :
    (installWork e s).QueuesLawful := by
  unfold installWork
  split
  · exact h.reply hidle _
  · split
    · exact h.reply hidle _
    · split
      · exact h.reply hidle _
      · split
        · exact h.reply hidle _
        · refine State.AtWork.reply ?_ ?_ _
          · exact h.withDirectory ((List.length_filter_le _ _).trans h.misses)
          · exact hidle

theorem watchWork_queuesLawful (period : Nat) {s : State} (h : s.AtWork) (hidle : s.carrying = .idle) :
    (watchWork period s).QueuesLawful := by
  unfold watchWork
  split
  · exact State.AtWork.reply (h.setWatch (.fresh period period)) hidle _
  · exact (h.setWatch (.fresh period _)).reloadFeed.reply ((State.reloadFeed_carrying _).trans hidle) _
  · exact (h.setWatch (.stale period)).reloadFeed.reply ((State.reloadFeed_carrying _).trans hidle) _

/-- A SETPAL answers, or owes its sweep with a place kept for the answer (R116, R117). -/
theorem setpalWork_queuesLawful (r : SetIx × Fin 14 × AttrIx) {s : State} (h : s.AtWork) (hidle : s.carrying = .idle) :
    (setpalWork r s).QueuesLawful := by
  unfold setpalWork State.handOver
  split
  · exact { h.queuesLawful with
      placeKept := fun _ => h.place
      sweepAlone := fun _ _ _ => hidle
      quiet := fun hq => absurd h.running hq }
  · rw [State.carryOut_sweep]
    refine State.AtWork.reply ?_ ?_ _
    · exact h.of_queues rfl
    · exact hidle

/-! ### TICK and RELEASE (R43, R46, R48) -/

theorem State.AtWork.applyAndPrint {s : State} (h : s.AtWork) (slot : Slot) (tape : Bool) (it : TickItems) :
    (s.applyAndPrint slot tape it).AtWork := by
  obtain ⟨owed, e⟩ := State.applyAndPrint_queues h.owesNoAnswer slot tape it
  obtain ⟨hl, -, -, hi, hm⟩ := State.queues_inj (s := { s with owed := owed }) e
  exact {
    running := hl ▸ h.running
    inbound := hl ▸ h.inbound
    place := hl ▸ h.place
    owesNoAnswer := s.applyAndPrint_owesNoAnswer slot tape it
    staging := hi ▸ h.staging
    misses := hm ▸ h.misses }

theorem State.disposeHit_queuesLawful (slot : Slot) (r : TickReq) {s : State} (h : s.AtWork) (hidle : s.carrying = .idle) :
    (s.disposeHit slot r).QueuesLawful := by
  unfold State.disposeHit
  split
  · exact (h.applyAndPrint slot r.tape r.items).queuesLawful
  · split
    · rename_i hroom
      refine (h.withStaging ?_).queuesLawful
      rw [List.length_append, List.length_singleton]
      exact hroom
    · exact h.reply hidle _

theorem tickWork_queuesLawful (r : TickReq) {s : State} (h : s.AtWork) (hidle : s.carrying = .idle) :
    (tickWork r s).QueuesLawful := by
  unfold tickWork
  dsimp only
  split
  · exact State.disposeHit_queuesLawful _ r h.reloadFeed (s.reloadFeed_carrying.trans hidle)
  · exact (h.reloadFeed.withDirectory (Directory.offerMiss_length h.reloadFeed.misses _ _)).queuesLawful

theorem releaseEntries_atWork (l : List Staged) (applied : Nat) {s : State} (h : s.AtWork) :
    (releaseEntries l applied s).2.AtWork := by
  induction l generalizing applied s with
  | nil => exact h
  | cons e l ih =>
    unfold releaseEntries
    split
    · exact ih _ h
    · exact ih _ (h.applyAndPrint _ _ _)

theorem State.AtWork.settled {s : State} (h : s.AtWork) : s.settled.AtWork :=
  { h with owesNoAnswer := nofun : { s with owed := none }.AtWork }.of_queues (State.settled_queues h.owesNoAnswer)

theorem State.endRelease_queuesLawful (applied : Nat) {s : State} (h : s.AtWork) : (s.endRelease applied).QueuesLawful :=
  ((h.withCarrying .idle).withStaging (staging := []) (Nat.zero_le _)).reply rfl _

theorem continueRelease_queuesLawful (n dealt applied : Nat) {s : State} (h : s.AtWork) :
    (continueRelease n dealt applied s).QueuesLawful := by
  by_cases hlt : dealt < s.intake.staging.length
  · rw [continueRelease_of_lt hlt]
    have hwork := releaseEntries_atWork ((s.intake.staging.drop dealt).take n) applied h
    unfold endOrHold
    split
    · exact State.endRelease_queuesLawful _ hwork
    · exact (hwork.withCarrying _).queuesLawful
  · rw [continueRelease, if_pos (not_lt.mp hlt)]
    exact State.endRelease_queuesLawful _ h.settled

theorem execRelease_queuesLawful {n : Nat} {s t : State} (hs : s.QueuesLawful) (h : execRelease n s = .next t) :
    t.QueuesLawful := by
  unfold execRelease at h
  split at h
  · rename_i hc
    cases h
    exact continueRelease_queuesLawful _ _ _ (hs.atWork (by rw [hc]; nofun))
  · exact request_queuesLawful (fun _ _ hu _ => continueRelease_queuesLawful n 0 0 hu) hs h
  · exact request_queuesLawful (fun _ _ hu _ => continueRelease_queuesLawful n 0 0 hu) hs h
  · cases h
    exact hs.settled

/-! ### STATUS (R178) -/

theorem continueStatus_queuesLawful (n done : Nat) (r : StatusReply) {s : State} (h : s.AtWork) :
    (continueStatus n done r s).QueuesLawful := by
  rw [continueStatus_eq]
  split
  · exact (h.withCarrying .idle).reply rfl _
  · exact (h.withCarrying _).queuesLawful

theorem execStatus_queuesLawful {n : Nat} {s t : State} (hs : s.QueuesLawful) (h : execStatus n s = .next t) :
    t.QueuesLawful := by
  unfold execStatus at h
  split at h
  · rename_i hc
    cases h
    exact continueStatus_queuesLawful _ _ _ (hs.atWork (by rw [hc]; nofun)).settled
  · exact request_queuesLawful (fun _ _ hu _ => continueStatus_queuesLawful n 0 _ hu) hs h
  · exact request_queuesLawful (fun _ _ hu _ => continueStatus_queuesLawful n 0 _ hu) hs h
  · cases h
    exact hs.settled

/-! ### The Feed Watch's expiry and the Heat Scan -/

/-- The Feed Watch expires only in a part that runs (R56). -/
theorem State.QueuesLawful.expire {s : State} (h : s.QueuesLawful) : s.expire.QueuesLawful := by
  unfold State.expire
  split
  · rename_i period remaining hw
    have hrun : s.link.phase = .running := by
      by_contra hq
      obtain ⟨-, -, -, -, -, -, -, -, hoff, -⟩ := h.quiet hq
      rw [hw] at hoff
      cases hoff
    rw [State.feedChanged_eq]
    exact { h with quiet := fun hq => absurd hrun hq }
  · exact h
  · exact h

theorem State.QueuesLawful.scanStep {s : State} (h : s.QueuesLawful) : s.scanStep.QueuesLawful := by
  unfold State.scanStep
  split
  · rename_i hrun
    have hvisit : (s.visit s.colour.scan.position).QueuesLawful := by
      rcases State.visit_queues s.colour.scan.position s with e | ⟨items, e⟩
      · exact h.of_queues e
      · exact (h.owingLookups hrun.1 s.colour.scan.position items).of_queues e
    exact hvisit.of_queues rfl
  · exact h

/-! ### The Link Interface (R170, R171, R175, R176, R180) -/

theorem execResetNReleased_queuesLawful {rate1 rate0 : Bool} {s t : State} (hs : s.QueuesLawful)
    (h : execResetNReleased rate1 rate0 s = .next t) : t.QueuesLawful := by
  unfold execResetNReleased at h
  split at h
  · rename_i hheld
    cases h
    exact { hs with quiet := fun _ => hs.quiet (by rw [hheld]; nofun) }
  · cases h
    exact hs

/-- The RESET_DONE notice enters an empty queue. -/
theorem execInitialisationEnd_queuesLawful {s t : State} (hs : s.QueuesLawful) (h : execInitialisationEnd s = .next t) :
    t.QueuesLawful := by
  unfold execInitialisationEnd at h
  split at h
  · rename_i hinit
    cases h
    obtain ⟨-, hout, -⟩ := hs.quiet (by rw [hinit]; nofun)
    have hlen : (s.link.outbound ++ [Record.resetDone s.link.cause]).length = 1 := by rw [hout]; rfl
    exact { hs with
      outbound := hlen.trans_le (by decide)
      placeKept := fun _ => hlen.trans_lt (by decide)
      quiet := fun hq => absurd rfl hq }
  · cases h
    exact hs

/-- The receiver touches the Inbound Queue, within its bound, and its own latches. -/
structure Link.Receives (l m : Link) : Prop where
  phase : m.phase = l.phase
  outbound : m.outbound = l.outbound
  inbound : l.inbound.length ≤ 8 → m.inbound.length ≤ 8

theorem Link.receives_discardFrame (got : List Byte) (l : Link) : l.Receives (l.discardFrame got) := by
  unfold Link.discardFrame Link.badFrameEvent
  split <;> exact ⟨rfl, rfl, id⟩

theorem Link.receives_offerFrame (f : LinkFrame) (l : Link) : l.Receives (l.offerFrame f) := by
  unfold Link.offerFrame
  split
  · rename_i hroom
    refine ⟨rfl, rfl, fun _ => ?_⟩
    rw [List.length_append, List.length_singleton]
    exact hroom
  · unfold Link.overrunEvent
    split <;> exact ⟨rfl, rfl, id⟩

theorem Link.receives_receive (byte : Byte) (stopHigh : Bool) (l : Link) : l.Receives (l.receive byte stopHigh) := by
  unfold Link.receive
  split
  · split <;> exact ⟨rfl, rfl, id⟩
  · split
    · unfold Link.gather
      split
      · exact Link.receives_discardFrame _ l
      · split
        · split
          · exact { Link.receives_offerFrame _ l with }
          · exact Link.receives_discardFrame _ l
        · exact ⟨rfl, rfl, id⟩
    · exact Link.receives_discardFrame _ l

/-- A part that runs keeps the law when its receiver works. -/
theorem State.QueuesLawful.receive {s : State} (h : s.QueuesLawful) (hrun : s.link.phase = .running) {l : Link}
    (hl : s.link.Receives l) : (s.setLink l).QueuesLawful :=
  { h with
    inbound := hl.inbound h.inbound
    outbound := by rw [State.setLink_link, hl.outbound]; exact h.outbound
    placeKept := by rw [State.setLink_link, hl.outbound]; exact h.placeKept
    quiet := fun hq => absurd (hl.phase.trans hrun) hq }

theorem execRxdCharacter_queuesLawful {byte : Byte} {stopHigh : Bool} {s t : State} (hs : s.QueuesLawful)
    (h : execRxdCharacter byte stopHigh s = .next t) : t.QueuesLawful := by
  unfold execRxdCharacter at h
  split at h
  · rename_i hrun
    cases h
    exact hs.receive hrun (Link.receives_receive _ _ _)
  · cases h
    exact hs

/-- Only a part that runs gathers a frame. -/
theorem execFrameGapTimeout_queuesLawful {s t : State} (hs : s.QueuesLawful) (h : execFrameGapTimeout s = .next t) :
    t.QueuesLawful := by
  unfold execFrameGapTimeout at h
  split at h
  · rename_i hgot
    cases h
    refine hs.receive ?_ (Link.receives_discardFrame _ _)
    by_contra hq
    obtain ⟨-, -, hhunt, -⟩ := hs.quiet hq
    rw [hgot] at hhunt
    cases hhunt
  · cases h
    exact hs

/-- A record that has been sent leaves the queue. -/
theorem State.QueuesLawful.recordSent {s : State} (h : s.QueuesLawful) :
    (s.setLink { s.link with outbound := s.link.outbound.tail }).QueuesLawful :=
  { h with
    outbound := (List.tail_sublist _).length_le.trans h.outbound
    placeKept := fun hk => (List.tail_sublist _).length_le.trans_lt (h.placeKept hk)
    quiet := fun hq =>
      let ⟨hin, hout, hrest⟩ := h.quiet hq
      ⟨hin, (congrArg List.tail hout).trans rfl, hrest⟩ }

/-- A part that runs has two places free in the Outbound Queue (R176). -/
structure State.HasRoom (s : State) : Prop extends s.QueuesLawful where
  running : s.link.phase = .running
  room : s.link.outbound.length + 2 ≤ 16

/-- An admission leaves a place for an answer still to be placed. -/
theorem State.HasRoom.admission {s : State} (h : s.HasRoom) (r : Record) : (s.place r).admissionMade.QueuesLawful := by
  have hplace : (s.place r).link.outbound.length < 16 := by
    have := h.room
    rw [State.place_link, List.length_append, List.length_singleton]
    omega
  exact State.QueuesLawful.admissionMade { h with
    outbound := hplace.le
    placeKept := fun _ => hplace
    quiet := fun hq => absurd h.running hq }

/-- The latches do not bear on the room. -/
theorem State.HasRoom.withLatches {s : State} (h : s.HasRoom) (badFrame overrun : Option Byte) (feedLatch : Bool) :
    (s.setLink { s.link with badFrame := badFrame, overrun := overrun, feedLatch := feedLatch }).HasRoom :=
  { h with quiet := fun hq => absurd h.running hq }

/-- What waits to be admitted waits in a part that runs. -/
theorem State.QueuesLawful.hasRoom {s : State} (h : s.QueuesLawful) (hadm : s.link.admits = true)
    (hwaits : s.classWaits = true) : s.HasRoom where
  toQueuesLawful := h
  running := by
    by_contra hq
    obtain ⟨-, -, -, -, hb, ho, hf, hm, -⟩ := h.quiet hq
    simp [State.classWaits, hb, ho, hf, hm] at hwaits
  room := by simpa [Link.admits, Config.outboundCapacity] using hadm

theorem execBadFrameAdmission_queuesLawful {s t : State} (hs : s.QueuesLawful) (h : execBadFrameAdmission s = .next t) :
    t.QueuesLawful := by
  unfold execBadFrameAdmission at h
  split at h
  · rename_i hadm hlatch
    cases h
    have hroom := hs.hasRoom hadm (by simp [State.classWaits, hlatch])
    exact (hroom.withLatches none s.link.overrun s.link.feedLatch).admission _
  · cases h
    exact hs

theorem execOverrunAdmission_queuesLawful {s t : State} (hs : s.QueuesLawful) (h : execOverrunAdmission s = .next t) :
    t.QueuesLawful := by
  unfold execOverrunAdmission at h
  split at h
  · rename_i hadm _ hlatch
    cases h
    have hroom := hs.hasRoom hadm (by simp [State.classWaits, hlatch])
    exact (hroom.withLatches s.link.badFrame none s.link.feedLatch).admission _
  · cases h
    exact hs

theorem execFeedNotice_queuesLawful {s t : State} (hs : s.QueuesLawful) (h : execFeedNotice s = .next t) :
    t.QueuesLawful := by
  unfold execFeedNotice at h
  split at h
  · rename_i hadm _ _ hlatch
    cases h
    have hroom := hs.hasRoom hadm (by simp [State.classWaits, hlatch])
    exact (hroom.withLatches s.link.badFrame s.link.overrun false).admission _
  · cases h
    exact hs

theorem Directory.oldestUnnotified_eq_some {d : Directory} {m : Miss} (h : d.oldestUnnotified = some m) :
    m ∈ d.misses ∧ m.notified = false := by
  have hp := List.find?_some h
  exact ⟨List.mem_of_find?_eq_some h, by simpa using hp⟩

theorem execMissNotice_queuesLawful {s t : State} (hs : s.QueuesLawful) (h : execMissNotice s = .next t) :
    t.QueuesLawful := by
  unfold execMissNotice at h
  split at h
  · rename_i m hadm _ _ _ hold
    cases h
    obtain ⟨hmem, hnew⟩ := Directory.oldestUnnotified_eq_some hold
    have hwaits : s.directory.misses.any (fun m => !m.notified) = true := List.any_eq_true.mpr ⟨m, hmem, by rw [hnew]; rfl⟩
    have hroom := hs.hasRoom hadm (by simp [State.classWaits, hwaits])
    refine State.HasRoom.admission ?_ _
    exact { hroom with
      misses := (markNotified_length _).trans_le hs.misses
      quiet := fun hq => absurd hroom.running hq }
  · cases h
    exact hs

/-! ### Every command -/

/-- Every command keeps the bounds of the queues. -/
theorem exec_queuesLawful {c : Instr} {s t : State} (hs : s.QueuesLawful) (h : exec c s = .next t) : t.QueuesLawful := by
  cases c with
  | resetNAsserted => cases h; exact s.resetBlocks_queuesLawful .pin .held
  | resetNReleased rate1 rate0 => exact execResetNReleased_queuesLawful hs h
  | initialisationEnd => exact execInitialisationEnd_queuesLawful hs h
  | rxdCharacter byte stopHigh => exact execRxdCharacter_queuesLawful hs h
  | frameGapTimeout => exact execFrameGapTimeout_queuesLawful hs h
  | recordSent => cases h; exact hs.recordSent
  | badFrameAdmission => exact execBadFrameAdmission_queuesLawful hs h
  | overrunAdmission => exact execOverrunAdmission_queuesLawful hs h
  | feedNotice => exact execFeedNotice_queuesLawful hs h
  | missNotice => exact execMissNotice_queuesLawful hs h
  | unknownKind => exact execUnknownKind_queuesLawful hs h
  | reset => exact request_queuesLawful (fun _ u _ _ => u.resetBlocks_queuesLawful .message .initialising) hs h
  | status n => exact execStatus_queuesLawful hs h
  | define => exact request_answers_queuesLawful defineWork_answers hs h
  | clear => exact request_answers_queuesLawful clearWork_answers hs h
  | halt => exact request_answers_queuesLawful (tradingWork_answers Kind.halt .halted) hs h
  | resume => exact request_answers_queuesLawful (tradingWork_answers Kind.resume .active) hs h
  | setref => exact request_answers_queuesLawful setrefWork_answers hs h
  | openDay => exact request_answers_queuesLawful (fun _ u => openDayWork_answers u) hs h
  | install => exact request_queuesLawful (fun e _ hu hidle => installWork_queuesLawful e hu hidle) hs h
  | remove => exact request_answers_queuesLawful removeWork_answers hs h
  | mpurge =>
    refine request_queuesLawful (fun _ u hu hidle => State.AtWork.reply ?_ ?_ _) hs h
    · exact hu.withDirectory (Nat.zero_le 8)
    · exact hidle
  | tick => exact request_queuesLawful (fun r _ hu hidle => tickWork_queuesLawful r hu hidle) hs h
  | release n => exact execRelease_queuesLawful hs h
  | discard =>
    refine request_queuesLawful (fun _ u hu hidle => State.AtWork.reply ?_ ?_ _) hs h
    · exact hu.withStaging (Nat.zero_le 32)
    · exact hidle
  | heartbeat =>
    refine request_queuesLawful (fun _ u hu hidle => ?_) hs h
    exact hu.reloadFeed.reply (u.reloadFeed_carrying.trans hidle) _
  | watch => exact request_queuesLawful (fun period _ hu hidle => watchWork_queuesLawful period hu hidle) hs h
  | feedWatchExpiry => cases h; exact hs.settled.expire
  | heatScanStep => cases h; exact hs.settled.scanStep
  | map => exact request_answers_queuesLawful mapWork_answers hs h
  | unmap => exact request_answers_queuesLawful unmapWork_answers hs h
  | mflush => exact request_answers_queuesLawful mflushWork_answers hs h
  | settext => exact request_answers_queuesLawful settextWork_answers hs h
  | setpal => exact request_queuesLawful (fun r _ hu hidle => setpalWork_queuesLawful r hu hidle) hs h
  | band => exact request_answers_queuesLawful bandWork_answers hs h
  | showBand => exact request_answers_queuesLawful showWork_answers hs h
  | tapetext => exact request_answers_queuesLawful tapetextWork_answers hs h
  | query | dflush | dprobe | mprobe | mfind | setattr | heatcfg | blink | paint | tapespeed =>
    exact request_answers_queuesLawful (by exact fun _ u => State.answers_reply (by rfl) _) hs h
  | frameStart => cases h; exact hs.settled.of_queues (State.startFrame_queues _)
  | bandClear k => cases h; exact hs.settled.of_queues (State.clearStep_queues k _)
  | taking => exact hs.of_queues (execTaking_queues h)
  | curtainRelease k => cases h; exact hs.settled.of_queues (State.releaseStep_queues k _)
  | rasterReading => cases h; exact hs.settled.of_queues (State.readFrame_queues _)

end Sys2Proof.Machine

open Sys2Proof Sys2Proof.Machine

/-- Settles O51: a step carries out a command, and each command keeps the bounds. -/
theorem queuesStayLawful : Obligations.QueuesStayLawful := by
  intro s t hs h
  unfold step at h
  split at h
  · cases h
    exact hs
  · rename_i c rest _
    have hrest : { s with pending := rest }.QueuesLawful := { hs with }
    exact exec_queuesLawful hrest h
end

section
/-! SUPPORT. The requests of the Symbol Directory, and a TICK that misses. -/

namespace Sys2Proof.Machine

open Sys2Proof

/-! ### The entries with a property -/

theorem validWith_eq_any (p : DirEntry → Bool) (x : Option DirEntry) : validWith p x = x.any p := by cases x <;> rfl

theorem any_validWith_eq_true {entries : Table 512 (Option DirEntry)} {p : DirEntry → Bool} :
    entries.any (validWith p) = true ↔ ∃ i x, entries.get i = some x ∧ p x = true := by
  simp only [Table.any_eq_true, validWith_eq_any, Option.any_eq_true]

theorem any_validWith_eq_false {entries : Table 512 (Option DirEntry)} {p : DirEntry → Bool} :
    ¬entries.any (validWith p) = true ↔ ∀ i x, entries.get i = some x → ¬p x = true := by
  rw [any_validWith_eq_true]
  push Not
  rfl

theorem DirEntry.sameIdentity_iff {e x : DirEntry} :
    e.sameIdentity x = true ↔ x.venue = e.venue ∧ x.any = e.any ∧ x.code = e.code := by
  simp [DirEntry.sameIdentity, and_assoc]

theorem DirEntry.conflicts_iff {e x : DirEntry} :
    e.conflicts x = true ↔ x.code = e.code ∧ (e.any = true ∨ x.any = true) := by
  simp [DirEntry.conflicts]

/-- The misses that an entry matches, by the misses' own pairs (R26). -/
theorem DirEntry.covers_miss (e : DirEntry) (m : Miss) :
    e.covers m.venue m.code = (decide (m.code = e.code) && (decide (m.venue = e.venue) || e.any)) := by
  simp only [DirEntry.covers, eq_comm]

/-- The lowest free entry. -/
theorem lowest_free_eq_some {entries : Table 512 (Option DirEntry)} {i : DirIx} (hi : entries.get i = none)
    (hl : ∀ j, j < i → entries.get j ≠ none) : entries.lowest Option.isNone = some i :=
  Table.lowest_eq_some.mpr ⟨by rw [hi]; rfl, fun j hj => Option.isNone_eq_false_iff.mpr (Option.isSome_iff_ne_none.mpr (hl j hj))⟩

theorem lowest_free_eq_none {entries : Table 512 (Option DirEntry)} (h : ∀ i, entries.get i ≠ none) :
    entries.lowest Option.isNone = none :=
  Table.lowest_eq_none.mpr fun i => Option.isNone_eq_false_iff.mpr (Option.isSome_iff_ne_none.mpr (h i))

/-- No two valid entries of a lawful directory have the same identity (R22). -/
theorem State.DirectoryLawful.identity_unique {s : State} (hlaw : s.DirectoryLawful) {i j : DirIx} {e x : DirEntry}
    (he : s.directory.entries.get i = some e) (hx : s.directory.entries.get j = some x) (hvenue : x.venue = e.venue)
    (hcode : x.code = e.code) : j = i :=
  hlaw.unambiguous j i x e e.venue e.code hx he (DirEntry.covers_iff.mpr ⟨hcode, .inl hvenue⟩)
    (DirEntry.covers_iff.mpr ⟨rfl, .inl rfl⟩)

/-! ### INSTALL (R25, R26) -/

section

variable {e : DirEntry} {s : State}

theorem installWork_noSlot (h : (s.records.get e.slot).state = .empty) :
    installWork e s = s.reject Kind.install .noSlot := by
  rw [installWork, if_pos h]

theorem installWork_duplicate (hslot : (s.records.get e.slot).state ≠ .empty)
    (h : ∃ i x, s.directory.entries.get i = some x ∧ x.venue = e.venue ∧ x.any = e.any ∧ x.code = e.code) :
    installWork e s = s.reject Kind.install .duplicate := by
  obtain ⟨i, x, hx, hid⟩ := h
  rw [installWork, if_neg hslot, if_pos (any_validWith_eq_true.mpr ⟨i, x, hx, DirEntry.sameIdentity_iff.mpr hid⟩)]

/-- An entry of a new identity passes DUPLICATE. -/
theorem passes_duplicate
    (h : ∀ i x, s.directory.entries.get i = some x → ¬(x.venue = e.venue ∧ x.any = e.any ∧ x.code = e.code)) :
    ¬s.directory.entries.any (validWith e.sameIdentity) = true :=
  any_validWith_eq_false.mpr fun i x hx hid => h i x hx (DirEntry.sameIdentity_iff.mp hid)

/-- An entry that would match no other entry's pair passes CONFLICT. -/
theorem passes_conflict
    (h : ∀ i x, s.directory.entries.get i = some x → ¬(x.code = e.code ∧ (e.any = true ∨ x.any = true))) :
    ¬s.directory.entries.any (validWith e.conflicts) = true :=
  any_validWith_eq_false.mpr fun i x hx hcon => h i x hx (DirEntry.conflicts_iff.mp hcon)

theorem installWork_conflict (hslot : (s.records.get e.slot).state ≠ .empty)
    (hnew : ∀ i x, s.directory.entries.get i = some x → ¬(x.venue = e.venue ∧ x.any = e.any ∧ x.code = e.code))
    (h : ∃ i x, s.directory.entries.get i = some x ∧ x.code = e.code ∧ (e.any = true ∨ x.any = true)) :
    installWork e s = s.reject Kind.install .conflict := by
  obtain ⟨i, x, hx, hcon⟩ := h
  rw [installWork, if_neg hslot, if_neg (passes_duplicate hnew),
    if_pos (any_validWith_eq_true.mpr ⟨i, x, hx, DirEntry.conflicts_iff.mpr hcon⟩)]

theorem installWork_full (hslot : (s.records.get e.slot).state ≠ .empty)
    (hnew : ∀ i x, s.directory.entries.get i = some x → ¬(x.venue = e.venue ∧ x.any = e.any ∧ x.code = e.code))
    (hcon : ∀ i x, s.directory.entries.get i = some x → ¬(x.code = e.code ∧ (e.any = true ∨ x.any = true)))
    (h : ∀ i, s.directory.entries.get i ≠ none) : installWork e s = s.reject Kind.install .full := by
  rw [installWork, if_neg hslot, if_neg (passes_duplicate hnew), if_neg (passes_conflict hcon), lowest_free_eq_none h]

theorem installWork_free {i : DirIx} (hslot : (s.records.get e.slot).state ≠ .empty)
    (hnew : ∀ i x, s.directory.entries.get i = some x → ¬(x.venue = e.venue ∧ x.any = e.any ∧ x.code = e.code))
    (hcon : ∀ i x, s.directory.entries.get i = some x → ¬(x.code = e.code ∧ (e.any = true ∨ x.any = true)))
    (hi : s.directory.entries.get i = none) (hl : ∀ j, j < i → s.directory.entries.get j ≠ none) :
    installWork e s = { s with directory := { s.directory with
      entries := s.directory.entries.set i (some e)
      misses := s.directory.misses.filter (fun m =>
        !(decide (m.code = e.code) && (decide (m.venue = e.venue) || e.any))) } }.ack Kind.install i.val := by
  rw [installWork, if_neg hslot, if_neg (passes_duplicate hnew), if_neg (passes_conflict hcon), lowest_free_eq_some hi hl]
  simp only [DirEntry.covers_miss]

end

/-! ### DFLUSH (R28) -/

/-- The selectors of a DFLUSH are read as the groups that R28 gives them. -/
theorem parse_dflush {selector : Nat} {group : DirEntry → Bool}
    (h : (selector ≤ 31 ∧ group = fun e => !e.any && decide (e.venue.val = selector))
      ∨ (selector = 0x20 ∧ group = fun e => e.any) ∨ (selector = 0xFF ∧ group = fun _ => true)) :
    ∃ g : DirGroup, parseDflush (beBytes 1 selector) = .ok g ∧ g.selects = group := by
  have hfield : fieldAt (beBytes 1 selector) 0 1 = selector := fieldAt_beBytes (by omega)
  rcases h with ⟨hle, rfl⟩ | ⟨rfl, rfl⟩ | ⟨rfl, rfl⟩
  · refine ⟨.venue ⟨selector, Nat.lt_succ_of_le hle⟩, ?_, ?_⟩
    · rw [parseDflush, if_neg (by simp), hfield, inRange_of_lt (Nat.lt_succ_of_le hle)]
    · funext e
      simp only [DirGroup.selects, Fin.ext_iff]
  · exact ⟨.anyVenue, rfl, rfl⟩
  · exact ⟨.all, rfl, rfl⟩

/-- Freeing the entries of a group keeps the others. -/
theorem free_selected_eq_filter (p : DirEntry → Bool) (x : Option DirEntry) :
    (if validWith p x then none else x) = x.filter (fun e => !p e) := by
  cases x with
  | none => rfl
  | some e => cases h : p e <;> simp [validWith, Option.filter, h]

theorem dflushWork_eq (g : DirGroup) (s : State) : dflushWork g s =
    { s with directory := { s.directory with
      entries := s.directory.entries.map (fun x : Option DirEntry => x.filter (fun e => !g.selects e)) } }.ack Kind.dflush
      (s.directory.entries.count (fun x : Option DirEntry => x.any g.selects)) := by
  have hfree : (fun x => if validWith g.selects x then none else x) = fun x => x.filter (fun e => !g.selects e) :=
    funext (free_selected_eq_filter g.selects)
  have hcount : validWith g.selects = fun x => x.any g.selects := funext (validWith_eq_any g.selects)
  rw [dflushWork, hfree, hcount]

/-! ### REMOVE (R27) -/

/-- The test of a REMOVE for an identity. -/
theorem validWith_identity_eq_true {venue : Venue} {any : Bool} {code : Code} {x : Option DirEntry} :
    validWith (fun x => decide (x.venue = venue) && decide (x.any = any) && decide (x.code = code)) x = true ↔
      ∃ e, x = some e ∧ e.venue = venue ∧ e.any = any ∧ e.code = code := by
  simp [validWith_eq_any, Option.any_eq_true, and_assoc]

/-- In a lawful directory, REMOVE frees the one entry of its identity (R22). -/
theorem removeWork_of_match {s : State} (hlaw : s.DirectoryLawful) {i : DirIx} {e : DirEntry}
    (he : s.directory.entries.get i = some e) : removeWork (e.venue, e.any, e.code) s =
      { s with directory := { s.directory with entries := s.directory.entries.set i none } }.ack Kind.remove i.val := by
  have hlow : s.directory.entries.lowest (validWith (fun x =>
      decide (x.venue = e.venue) && decide (x.any = e.any) && decide (x.code = e.code))) = some i := by
    refine Table.lowest_eq_some.mpr ⟨validWith_identity_eq_true.mpr ⟨e, he, rfl, rfl, rfl⟩, fun j hj => ?_⟩
    refine Bool.eq_false_iff.mpr fun hid => ?_
    obtain ⟨x, hx, hvenue, -, hcode⟩ := validWith_identity_eq_true.mp hid
    exact hj.ne (hlaw.identity_unique he hx hvenue hcode)
  simp only [removeWork, hlow]

theorem removeWork_of_no_match {s : State} {venue : Venue} {any : Bool} {code : Code}
    (hno : ∀ i e, s.directory.entries.get i = some e → ¬(e.venue = venue ∧ e.any = any ∧ e.code = code)) :
    removeWork (venue, any, code) s = s.ack Kind.remove 0xFFFF := by
  have hlow : s.directory.entries.lowest (validWith (fun x =>
      decide (x.venue = venue) && decide (x.any = any) && decide (x.code = code))) = none := by
    refine Table.lowest_eq_none.mpr fun j => Bool.eq_false_iff.mpr fun hid => ?_
    obtain ⟨x, hx, hpair⟩ := validWith_identity_eq_true.mp hid
    exact hno j x hx hpair
  simp only [removeWork, hlow]

/-! ### A TICK that misses (R32, R33, R41, R42) -/

/-- A TICK whose lookup misses reloads the Feed Watch and offers its pair to the Miss List. -/
theorem tickWork_of_find_none {r : TickReq} {s : State} (h : s.directory.find r.venue r.code = none) :
    tickWork r s = { s.reloaded with directory := s.directory.offerMiss r.venue r.code } := by
  rw [tickWork, State.reloadFeed_eq, State.reloaded_directory, h]

theorem execTick_of_no_match {s : State} {venue : Venue} {code : Code} {flags : Byte} {spare : Fin 8} {it : TickItems}
    (hfits : it.Fits) (hmask : it.mask ≠ 0) (h : s.Offers 0x18 (tickBytes venue code flags spare it))
    (hno : ∀ i e, s.directory.entries.get i = some e → ¬(e.code = code ∧ (e.venue = venue ∨ e.any = true))) :
    exec .tick s = .next { s.reloaded.takeHead with directory := s.directory.offerMiss venue code } := by
  have hfind : s.directory.find venue code = none :=
    Directory.find_eq_none.mpr fun i e he => Bool.eq_false_iff.mpr fun hc => hno i e he (DirEntry.covers_iff.mp hc)
  refine (request_ok h (parse_tick venue code flags spare it hfits hmask)).trans (congrArg _ ?_)
  have hwork := tickWork_of_find_none (s := s.takeHead)
    (r := ⟨venue, code, flags.getLsbD 0, flags.getLsbD 1, it.saturated⟩) hfind
  rw [hwork, State.reloaded_takeHead]
  rfl

theorem Directory.any_pair_eq_true {d : Directory} {venue : Venue} {code : Code} :
    d.misses.any (fun m => decide (m.venue = venue) && decide (m.code = code)) = true ↔
      ∃ m ∈ d.misses, m.venue = venue ∧ m.code = code := by
  simp

/-- A pair that the Miss List holds is not entered again (R32). -/
theorem Directory.offerMiss_of_mem {d : Directory} {venue : Venue} {code : Code}
    (h : ∃ m ∈ d.misses, m.venue = venue ∧ m.code = code) : d.offerMiss venue code = d := by
  rw [Directory.offerMiss, if_pos (Directory.any_pair_eq_true.mpr h)]

/-- A new pair joins the list while it has room (R32). -/
theorem Directory.offerMiss_of_room {d : Directory} {venue : Venue} {code : Code}
    (h : ∀ m ∈ d.misses, ¬(m.venue = venue ∧ m.code = code)) (hroom : d.misses.length < 8) :
    d.offerMiss venue code = { d with misses := d.misses ++ [⟨venue, code, false⟩] } := by
  rw [Directory.offerMiss, if_neg (fun hp => ?_), if_pos (show _ < Config.missCapacity from hroom)]
  obtain ⟨m, hm, hpair⟩ := Directory.any_pair_eq_true.mp hp
  exact h m hm hpair

/-- A new pair sets the overflow flag of a full list (R33). -/
theorem Directory.offerMiss_of_full {d : Directory} {venue : Venue} {code : Code}
    (h : ∀ m ∈ d.misses, ¬(m.venue = venue ∧ m.code = code)) (hfull : 8 ≤ d.misses.length) :
    d.offerMiss venue code = { d with overflow := true } := by
  rw [Directory.offerMiss, if_neg (fun hp => ?_), if_neg (show ¬_ < Config.missCapacity from not_lt.mpr hfull)]
  obtain ⟨m, hm, hpair⟩ := Directory.any_pair_eq_true.mp hp
  exact h m hm hpair

end Sys2Proof.Machine

open Sys2Proof Sys2Proof.Machine

/-- Settles O21, check by check. -/
theorem installAddsEntry : Obligations.InstallAddsEntry := by
  intro s e h
  have hx : exec .install s = .next (installWork e s.takeHead) := request_ok h (parse_install e)
  rw [hx]
  refine ⟨fun hslot => congrArg _ (installWork_noSlot (s := s.takeHead) hslot),
    fun hslot hdup => congrArg _ (installWork_duplicate (s := s.takeHead) hslot hdup), fun hslot hnew => ?_⟩
  exact ⟨fun hcon => congrArg _ (installWork_conflict (s := s.takeHead) hslot hnew hcon),
    fun hcon => ⟨fun hfull => congrArg _ (installWork_full (s := s.takeHead) hslot hnew hcon hfull),
      fun i hi hlow => congrArg _ (installWork_free (s := s.takeHead) hslot hnew hcon hi hlow)⟩⟩

/-- Settles O22: the one entry of the identity, and the groups of the selectors. -/
theorem removeAndFlushEntries : Obligations.RemoveAndFlushEntries := by
  refine ⟨fun s venue any code hlaw h => ?_, fun s selector group h hgroup => ?_⟩
  · have hx : exec .remove s = .next (removeWork (venue, any, code) s.takeHead) := request_ok h (parse_remove venue any code)
    rw [hx]
    refine ⟨fun i e he hvenue hany hcode => ?_, fun hno => congrArg _ (removeWork_of_no_match (s := s.takeHead) hno)⟩
    subst hvenue hany hcode
    exact congrArg _ (removeWork_of_match (s := s.takeHead) { hlaw with } he)
  · obtain ⟨g, hparse, rfl⟩ := parse_dflush hgroup
    exact (request_ok h hparse).trans (congrArg _ (dflushWork_eq g s.takeHead))

/-- Settles O24, by whether the Miss List holds the pair and has room. -/
theorem tickMissed : Obligations.TickMissed := by
  intro s venue code flags spare it hfits hmask h hno
  rw [execTick_of_no_match hfits hmask h hno]
  refine ⟨fun hmem => ?_, fun hnew => ⟨fun hroom => ?_, fun hfull => ?_⟩⟩
  · rw [Directory.offerMiss_of_mem hmem, ← s.reloaded_directory]
    rfl
  · rw [Directory.offerMiss_of_room hnew hroom]
  · rw [Directory.offerMiss_of_full hnew hfull]

/-- Settles O23, by whether there is a payload. -/
theorem purgeEmptiesMissList : Obligations.PurgeEmptiesMissList := by
  refine fun s p h => ⟨fun hp => ?_, fun hp => ?_⟩
  · subst hp
    exact request_ok h (a := ()) rfl
  · refine request_error h ?_
    rw [noFields, if_neg (mt List.length_eq_zero_iff.mp hp)]
end

section
/-! SUPPORT. The queue arbiter's admissions, and answers still to be placed. -/

namespace Sys2Proof.Machine

open Sys2Proof

/-! ### The classes that wait (R176) -/

theorem Link.admits_eq_true {l : Link} : l.admits = true ↔ l.outbound.length + 2 ≤ 16 := by
  simp [Link.admits, Config.outboundCapacity]

theorem State.classWaits_iff {s : State} : s.classWaits = true ↔
    s.link.badFrame ≠ none ∨ s.link.overrun ≠ none ∨ s.link.feedLatch = true ∨ ∃ m ∈ s.directory.misses, m.notified = false := by
  simp [State.classWaits, Option.isSome_iff_ne_none, or_assoc]

/-- The oldest un-notified record stands behind notified ones (R34). -/
theorem Directory.oldestUnnotified_of_misses {d : Directory} {older newer : List Miss} {m : Miss}
    (h : d.misses = older ++ m :: newer) (hm : m.notified = false) (holder : ∀ x ∈ older, x.notified = true) :
    d.oldestUnnotified = some m := by
  have hnone : older.find? (fun x => !x.notified) = none :=
    List.find?_eq_none.mpr fun x hx => by rw [holder x hx]; decide
  rw [Directory.oldestUnnotified, h, List.find?_append, hnone, List.find?_cons, hm]
  rfl

/-- The notice of a miss marks the record it is of (R34). -/
theorem markNotified_append {older newer : List Miss} {m : Miss} (hm : m.notified = false)
    (holder : ∀ x ∈ older, x.notified = true) :
    markNotified (older ++ m :: newer) = older ++ { m with notified := true } :: newer := by
  induction older with
  | nil => simp [markNotified, hm]
  | cons x older ih =>
    rw [List.cons_append, markNotified, if_pos (holder x List.mem_cons_self),
      ih (fun y hy => holder y (List.mem_cons_of_mem _ hy))]
    rfl

/-! ### Admissions (R176) -/

section

variable {s : State}

theorem execBadFrameAdmission_of_latch {kind : Byte} (hroom : s.link.outbound.length + 2 ≤ 16)
    (hb : s.link.badFrame = some kind) : execBadFrameAdmission s =
      .next ((s.setLink { s.link with badFrame := none }).place (.reject kind .badFrame)).admissionMade := by
  simp only [execBadFrameAdmission, Link.admits_eq_true.mpr hroom, hb]

theorem execOverrunAdmission_of_latch {kind : Byte} (hroom : s.link.outbound.length + 2 ≤ 16) (hb : s.link.badFrame = none)
    (ho : s.link.overrun = some kind) : execOverrunAdmission s =
      .next ((s.setLink { s.link with overrun := none }).place (.reject kind .overrun)).admissionMade := by
  simp only [execOverrunAdmission, Link.admits_eq_true.mpr hroom, hb, ho]

theorem execFeedNotice_of_latch (hroom : s.link.outbound.length + 2 ≤ 16) (hb : s.link.badFrame = none)
    (ho : s.link.overrun = none) (hf : s.link.feedLatch = true) : execFeedNotice s =
      .next ((s.setLink { s.link with feedLatch := false }).place (.feed s.intake.watch.code)).admissionMade := by
  simp only [execFeedNotice, Link.admits_eq_true.mpr hroom, hb, ho, hf]

theorem execMissNotice_of_oldest {m : Miss} (hroom : s.link.outbound.length + 2 ≤ 16) (hb : s.link.badFrame = none)
    (ho : s.link.overrun = none) (hf : s.link.feedLatch = false) (hm : s.directory.oldestUnnotified = some m) :
    execMissNotice s = .next ({ s with directory := { s.directory with
      misses := markNotified s.directory.misses } }.place (.miss m.venue m.code)).admissionMade := by
  simp only [execMissNotice, Link.admits_eq_true.mpr hroom, hb, ho, hf, hm]

/-- What must hold of the Outbound Queue and of the earlier classes for an admission to come about. -/
theorem admission_needs {c : Instr} (hc : c ∈ [Instr.badFrameAdmission, .overrunAdmission, .feedNotice, .missNotice])
    (h : exec c s ≠ .next s) : s.link.outbound.length + 2 ≤ 16
      ∧ (c ≠ .badFrameAdmission → s.link.badFrame = none)
      ∧ (c = .feedNotice ∨ c = .missNotice → s.link.overrun = none)
      ∧ (c = .missNotice → s.link.feedLatch = false) := by
  rw [← Link.admits_eq_true]
  simp only [List.mem_cons, List.not_mem_nil, or_false] at hc
  rcases hc with rfl | rfl | rfl | rfl
  · change execBadFrameAdmission s ≠ _ at h
    unfold execBadFrameAdmission at h
    split at h
    · exact ⟨‹_›, by simp, by simp, by simp⟩
    · exact absurd rfl h
  · change execOverrunAdmission s ≠ _ at h
    unfold execOverrunAdmission at h
    split at h
    · exact ⟨‹_›, fun _ => ‹_›, by simp, by simp⟩
    · exact absurd rfl h
  · change execFeedNotice s ≠ _ at h
    unfold execFeedNotice at h
    split at h
    · exact ⟨‹_›, fun _ => ‹_›, fun _ => ‹_›, by simp⟩
    · exact absurd rfl h
  · change execMissNotice s ≠ _ at h
    unfold execMissNotice at h
    split at h
    · exact ⟨‹_›, fun _ => ‹_›, fun _ => ‹_›, fun _ => ‹_›⟩
    · exact absurd rfl h

end

/-! ### An answer still to be placed (R173, R177) -/

theorem State.placed_of_not_answering {s : State} (h : ∀ r, s.carrying ≠ .answering r) : s.placed = s := by
  unfold State.placed
  split
  · rename_i r hr
    exact absurd hr (h r)
  · rfl
  · rfl
  · rfl

/-- The Interpreter's next step sees only what is settled and placed. -/
theorem request_of_ready {α : Type} {kind : Byte} {parse : List Byte → Except Reason α} {work : α → State → State} {s t : State}
    (h : s.ready = t.ready) : request kind parse work s = request kind parse work t := by
  rw [request, request, h]

theorem execUnknownKind_of_ready {s t : State} (h : s.ready = t.ready) : execUnknownKind s = execUnknownKind t := by
  unfold execUnknownKind
  rw [h]

theorem State.ready_placed {s : State} (h : s.owed = none) : s.placed.ready = s.ready := by
  rw [State.ready, State.ready, State.settled_of_none h, State.settled_of_none (s.placed_owed.trans h), State.placed_placed]

/-- Between requests, the step of each is that of a check and a work. -/
theorem exec_eq_request {c : Instr} {kind : Byte} (h : requestKind c = some kind) :
    ∃ (α : Type) (parse : List Byte → Except Reason α) (work : α → State → State),
      ∀ s, (s.carrying = .idle ∨ ∃ r, s.carrying = .answering r) → exec c s = request kind parse work s := by
  cases c with
  | status n => cases h; exact ⟨_, _, _, fun _ hs => execStatus_eq_request hs n⟩
  | release n => cases h; exact ⟨_, _, _, fun _ hs => execRelease_eq_request hs n⟩
  | reset | define | clear | halt | resume | setref | openDay | query | install | remove | dflush | dprobe | mpurge | tick
  | discard | heartbeat | watch | map | unmap | mflush | mprobe | mfind | settext | setattr | setpal | heatcfg | blink | band
  | showBand | paint | tapetext | tapespeed =>
    cases h
    exact ⟨_, _, _, fun _ _ => rfl⟩
  | _ => cases h

/-- The Interpreter's next step places the answer, and then does what it does. -/
theorem exec_placed {c : Instr} {s : State} {r : Record} (hr : s.carrying = .answering r) (ho : s.owed = none)
    (hc : c = .unknownKind ∨ (requestKind c).isSome = true) : exec c s = exec c s.placed := by
  have hready := State.ready_placed ho
  rcases hc with rfl | hc
  · exact execUnknownKind_of_ready hready.symm
  · obtain ⟨kind, hkind⟩ := Option.isSome_iff_exists.mp hc
    obtain ⟨α, parse, work, hexec⟩ := exec_eq_request hkind
    have hidle : s.placed.carrying = .idle := by rw [State.placed_of_answering hr]
    rw [hexec s (.inr ⟨r, hr⟩), hexec s.placed (.inl hidle)]
    exact request_of_ready hready.symm

/-! ### The events that touch no answer still to be placed -/

theorem State.carrying_of_queues {s t : State} (h : t.queues = s.queues) : t.carrying = s.carrying :=
  (State.queues_inj h).2.1

theorem State.expire_carrying (s : State) : s.expire.carrying = s.carrying := by
  unfold State.expire
  split
  · exact State.feedChanged_carrying _
  · rfl
  · rfl

theorem State.scanStep_carrying (s : State) : s.scanStep.carrying = s.carrying := by
  unfold State.scanStep
  split
  · rcases State.visit_queues s.colour.scan.position s with e | ⟨items, e⟩
    · exact State.carrying_of_queues e
    · exact congrArg Queues.carrying e
  · rfl

theorem execResetNReleased_carrying {rate1 rate0 : Bool} {s t : State} (h : execResetNReleased rate1 rate0 s = .next t) :
    t.carrying = s.carrying := by
  unfold execResetNReleased at h
  split at h <;> cases h <;> rfl

theorem execInitialisationEnd_carrying {s t : State} (h : execInitialisationEnd s = .next t) : t.carrying = s.carrying := by
  unfold execInitialisationEnd at h
  split at h <;> cases h <;> rfl

theorem execRxdCharacter_carrying {byte : Byte} {stopHigh : Bool} {s t : State}
    (h : execRxdCharacter byte stopHigh s = .next t) : t.carrying = s.carrying := by
  unfold execRxdCharacter at h
  split at h <;> cases h <;> rfl

theorem execFrameGapTimeout_carrying {s t : State} (h : execFrameGapTimeout s = .next t) : t.carrying = s.carrying := by
  unfold execFrameGapTimeout at h
  split at h <;> cases h <;> rfl

/-- Where nothing is owed, an event that is no Interpreter's step, no admission and no reset leaves what is being carried out. -/
theorem exec_carrying {c : Instr} {s t : State} (ho : s.owed = none) (hk : requestKind c = none)
    (hc : c ∉ [.unknownKind, .badFrameAdmission, .overrunAdmission, .feedNotice, .missNotice, .resetNAsserted])
    (h : exec c s = .next t) : t.carrying = s.carrying := by
  have hset := State.settled_of_none ho
  cases c with
  | resetNReleased rate1 rate0 => exact execResetNReleased_carrying h
  | initialisationEnd => exact execInitialisationEnd_carrying h
  | rxdCharacter byte stopHigh => exact execRxdCharacter_carrying h
  | frameGapTimeout => exact execFrameGapTimeout_carrying h
  | recordSent => cases h; rfl
  | feedWatchExpiry => cases h; rw [hset, State.expire_carrying]
  | heatScanStep => cases h; rw [hset, State.scanStep_carrying]
  | frameStart => cases h; rw [hset]; exact State.carrying_of_queues s.startFrame_queues
  | bandClear k => cases h; rw [hset]; exact State.carrying_of_queues (s.clearStep_queues k)
  | taking => exact State.carrying_of_queues (execTaking_queues h)
  | curtainRelease k => cases h; rw [hset]; exact State.carrying_of_queues (s.releaseStep_queues k)
  | rasterReading => cases h; rw [hset]; exact State.carrying_of_queues s.readFrame_queues
  | unknownKind | badFrameAdmission | overrunAdmission | feedNotice | missNotice | resetNAsserted => simp at hc
  | _ => cases hk

end Sys2Proof.Machine

open Sys2Proof Sys2Proof.Machine

/-- Settles O11: the admission of each class, what keeps one from coming about, the answers of a request, and the answer still to
be placed. -/
theorem queueAdmissionsInOrder : Obligations.QueueAdmissionsInOrder := by
  refine ⟨fun s hroom => ⟨fun kind hb => execBadFrameAdmission_of_latch hroom hb,
      fun kind hb ho => execOverrunAdmission_of_latch hroom hb ho, fun hb ho hf => execFeedNotice_of_latch hroom hb ho hf,
      fun older newer m hb ho hf hmiss hm holder => ?_⟩,
    fun s => ⟨fun hfull c hc => ?_, fun hb c hc => ?_, fun ho c hc => ?_, fun hf => ?_⟩,
    fun s r waits hwaits => ⟨fun hw => ?_, fun hw => ?_⟩,
    fun s r c hr ho => ⟨fun hc => ?_, fun hk hc t h => (exec_carrying ho hk hc h).trans hr⟩⟩
  · rw [← markNotified_append hm holder, ← hmiss]
    exact execMissNotice_of_oldest hroom hb ho hf (Directory.oldestUnnotified_of_misses hmiss hm holder)
  · by_contra hne
    obtain ⟨hroom, -⟩ := admission_needs hc hne
    omega
  · by_contra hne
    obtain ⟨-, hbad, -⟩ := admission_needs (List.mem_cons_of_mem _ hc) hne
    rw [hbad (by rintro rfl; simp at hc)] at hb
    cases hb
  · by_contra hne
    obtain ⟨-, -, hover, -⟩ := admission_needs (List.mem_cons_of_mem _ (List.mem_cons_of_mem _ hc)) hne
    rw [hover (by simpa using hc)] at ho
    cases ho
  · by_contra hne
    obtain ⟨-, -, -, hfeed⟩ := admission_needs (by simp) hne
    rw [hfeed rfl] at hf
    cases hf
  · have hclass := State.classWaits_iff.mpr (hwaits.mp hw)
    exact ⟨State.reply_of_classWaits r hclass, if_pos hclass⟩
  · have hclass : s.classWaits = false := Bool.eq_false_iff.mpr fun hc => hw (hwaits.mpr (State.classWaits_iff.mp hc))
    have hmade : s.admissionMade = s.placed := if_neg (by rw [hclass]; decide)
    exact ⟨State.reply_of_not_classWaits r hclass, fun hr => hmade.trans (State.placed_of_answering hr),
      fun hr => hmade.trans (State.placed_of_not_answering hr)⟩
  · rw [exec_placed hr ho hc, State.placed_of_answering hr]
end

section
/-! SUPPORT. What a step can do to the settings that R52, R105, R125 and R151 bound, said once: each command makes at most one of
the changes listed in Settings.Change, and everything else it does leaves the settings alone. -/

namespace Sys2Proof.Machine

open Sys2Proof

/-- The Feed Watch, the Heat Scan, the paint budget, and the blink period with its count. -/
structure Settings where
  watch : FeedWatch
  scan : HeatScan
  budget : Nat
  blinkPeriod : Nat
  blinkCount : Nat

/-- The settings of a state. -/
def State.settings (s : State) : Settings :=
  ⟨s.intake.watch, s.colour.scan, s.painter.budget, s.raster.blinkPeriod, s.raster.blinkCount⟩

@[simp] theorem State.settings_watch (s : State) : s.settings.watch = s.intake.watch := rfl
@[simp] theorem State.settings_scan (s : State) : s.settings.scan = s.colour.scan := rfl
@[simp] theorem State.settings_budget (s : State) : s.settings.budget = s.painter.budget := rfl
@[simp] theorem State.settings_blinkPeriod (s : State) : s.settings.blinkPeriod = s.raster.blinkPeriod := rfl
@[simp] theorem State.settings_blinkCount (s : State) : s.settings.blinkCount = s.raster.blinkCount := rfl

/-- A walk whose every step leaves the settings alone leaves them alone. -/
theorem State.foldl_settings {α : Type} {f : State → α → State} (h : ∀ s a, (f s a).settings = s.settings) (l : List α)
    (s : State) : (l.foldl f s).settings = s.settings := by
  induction l generalizing s with
  | nil => rfl
  | cons a l ih => rw [List.foldl_cons, ih, h]

/-! ### The updates that the settings do not see -/

@[simp] theorem State.takeHead_settings (s : State) : s.takeHead.settings = s.settings := rfl
@[simp] theorem State.place_settings (r : Record) (s : State) : (s.place r).settings = s.settings := rfl
@[simp] theorem State.reply_settings (r : Record) (s : State) : (s.reply r).settings = s.settings := rfl
@[simp] theorem State.ack_settings (kind : Byte) (value : Nat) (s : State) : (s.ack kind value).settings = s.settings := rfl
@[simp] theorem State.reject_settings (kind : Byte) (reason : Reason) (s : State) :
    (s.reject kind reason).settings = s.settings := rfl
@[simp] theorem State.setLink_settings (l : Link) (s : State) : (s.setLink l).settings = s.settings := rfl
@[simp] theorem State.setRecord_settings (slot : Slot) (q : Quote) (s : State) :
    (s.setRecord slot q).settings = s.settings := rfl
@[simp] theorem State.setWork_settings (w : PaintWork) (s : State) : (s.setWork w).settings = s.settings := rfl
@[simp] theorem State.updateWork_settings (s : State) : s.updateWork.settings = s.settings := rfl
@[simp] theorem State.setCells_settings (c : CellStore) (s : State) : (s.setCells c).settings = s.settings := rfl
@[simp] theorem State.modifyBand_settings (k : BandIx) (f : Band → Band) (s : State) :
    (s.modifyBand k f).settings = s.settings := rfl
@[simp] theorem State.queued_settings (new : List EntryIx) (s : State) : (s.queued new).settings = s.settings := rfl
@[simp] theorem State.setWatch_settings (w : FeedWatch) (s : State) :
    (s.setWatch w).settings = { s.settings with watch := w } := rfl

@[simp] theorem State.placed_settings (s : State) : s.placed.settings = s.settings := by
  unfold State.placed
  split <;> rfl

@[simp] theorem State.admissionMade_settings (s : State) : s.admissionMade.settings = s.settings := by
  unfold State.admissionMade
  split
  · rfl
  · exact s.placed_settings

/-! ### Marks -/

@[simp] theorem State.markEntry_settings (s : State) (i : EntryIx) : (s.markEntry i).settings = s.settings := by
  rw [State.markEntry_eq, State.queued_settings]

@[simp] theorem State.markWhere_settings (p : Field → Bool) (s : State) : (s.markWhere p).settings = s.settings := by
  rw [State.markWhere_eq, State.queued_settings]

@[simp] theorem State.markItems_settings (slot : Slot) (items : List Item) (s : State) :
    (s.markItems slot items).settings = s.settings := by
  obtain ⟨new, h⟩ := State.markItems_queued slot items s
  rw [h, State.queued_settings]

@[simp] theorem State.carryOut_settings (m : Marks) (s : State) : (s.carryOut m).settings = s.settings := by
  cases m with
  | lookups slot items => exact s.markItems_settings slot items
  | sweep set attr => exact s.markWhere_settings (inPalette set)

@[simp] theorem State.handOver_settings (m : Marks) (s : State) : (s.handOver m).settings = s.settings := by
  unfold State.handOver
  split
  · rfl
  · exact s.carryOut_settings m

@[simp] theorem State.settled_settings (s : State) : s.settled.settings = s.settings := by
  unfold State.settled
  split
  · exact State.carryOut_settings _ _
  · rfl

@[simp] theorem State.ready_settings (s : State) : s.ready.settings = s.settings := by
  rw [State.ready, State.placed_settings, State.settled_settings]

@[simp] theorem State.feedChanged_settings (s : State) : s.feedChanged.settings = s.settings := by
  rw [State.feedChanged_eq]
  rfl

@[simp] theorem State.offerPrint_settings (slot : Slot) (tape : Bool) (items : TickItems) (s : State) :
    (s.offerPrint slot tape items).settings = s.settings := by
  unfold State.offerPrint
  split
  · split <;> rfl
  · rfl

@[simp] theorem State.applyAndPrint_settings (slot : Slot) (tape : Bool) (it : TickItems) (s : State) :
    (s.applyAndPrint slot tape it).settings = s.settings := by
  simp [State.applyAndPrint, State.applyTick]

/-! ### The Field Map and the Band Table -/

@[simp] theorem State.setUnpainted_settings (k : BandIx) (s : State) (i : EntryIx) :
    (s.setUnpainted k i).settings = s.settings := by
  unfold State.setUnpainted
  split <;> rfl

@[simp] theorem State.clearUnpainted_settings (i : EntryIx) (s : State) (k : BandIx) :
    (s.clearUnpainted i k).settings = s.settings := by
  rw [State.clearUnpainted_eq]
  rfl

@[simp] theorem State.clearMarksFor_settings (k : BandIx) (s : State) : (s.clearMarksFor k).settings = s.settings := rfl

@[simp] theorem State.sweepBand_settings (k : BandIx) (s : State) : (s.sweepBand k).settings = s.settings := by
  rw [State.sweepBand_eq]
  rfl

@[simp] theorem State.refreshBand_settings (k : BandIx) (s : State) : (s.refreshBand k).settings = s.settings := by
  rw [State.refreshBand_eq]
  rfl

@[simp] theorem State.freeEntry_settings (s : State) (i : EntryIx) : (s.freeEntry i).settings = s.settings := by
  rw [State.freeEntry_eq]
  rfl

@[simp] theorem State.eraseEntry_settings (i : EntryIx) (s : State) : (s.eraseEntry i).settings = s.settings := by
  rw [State.eraseEntry, State.clearMarksOf_eq]
  rfl

@[simp] theorem State.holdCurtain_settings (i : EntryIx) (s : State) (k : BandIx) :
    (s.holdCurtain i k).settings = s.settings := by
  unfold State.holdCurtain
  split <;> simp

@[simp] theorem State.placeEntry_settings (i : EntryIx) (f : Field) (s : State) :
    (s.placeEntry i f).settings = s.settings := by
  rw [State.placeEntry, State.markEntry_settings, State.foldl_settings (State.holdCurtain_settings i)]
  rfl

@[simp] theorem State.leaveTape_settings (shown : Shows) (s : State) : (s.leaveTape shown).settings = s.settings := by
  unfold State.leaveTape
  split <;> rfl

@[simp] theorem State.settleBand_settings (k : BandIx) (height : Nat) (shown : Shows) (s : State) :
    (s.settleBand k height shown).settings = s.settings := by
  unfold State.settleBand State.freeBand
  split
  · simp
  · split <;> simp

@[simp] theorem State.stealFrom_settings (k : BandIx) (target : Shows) (s : State) (j : BandIx) :
    (s.stealFrom k target j).settings = s.settings := by
  unfold State.stealFrom
  split <;> simp

@[simp] theorem State.stealBoard_settings (k : BandIx) (target : Shows) (s : State) :
    (s.stealBoard k target).settings = s.settings := by
  cases target with
  | nothing => rfl
  | board b => exact State.foldl_settings (State.stealFrom_settings k _) allBands s
  | tape => rfl

@[simp] theorem State.leaveBoard_settings (k : BandIx) (s : State) : (s.leaveBoard k).settings = s.settings := by
  unfold State.leaveBoard
  split <;> simp

@[simp] theorem State.takeTarget_settings (k : BandIx) (target : Shows) (s : State) :
    (s.takeTarget k target).settings = s.settings := by
  unfold State.takeTarget
  split
  · simp
  · simp
  · split <;> simp

/-! ### The Painter -/

@[simp] theorem State.clearBand_settings (k : BandIx) (s : State) : (s.clearBand k).settings = s.settings := by
  unfold State.clearBand
  dsimp only
  split <;> simp

@[simp] theorem State.clearStep_settings (k : BandIx) (s : State) : (s.clearStep k).settings = s.settings := by
  unfold State.clearStep
  split
  · split <;> simp
  · rfl
  · rfl
  · rfl

@[simp] theorem State.writeInto_settings (i : EntryIx) (chars : List (Byte × AttrIx)) (s : State) (k : BandIx) :
    (s.writeInto i chars k).settings = s.settings := by
  unfold State.writeInto
  dsimp only
  split <;> simp

@[simp] theorem State.eraseFrom_settings (f : Field) (s : State) (k : BandIx) : (s.eraseFrom f k).settings = s.settings := by
  unfold State.eraseFrom
  split <;> simp

@[simp] theorem State.dealWith_settings (i : EntryIx) (s : State) : (s.dealWith i).1.settings = s.settings := by
  unfold State.dealWith
  dsimp only
  split
  · exact State.foldl_settings (State.writeInto_settings i _) allBands s
  · rfl
  · exact State.foldl_settings (State.eraseFrom_settings _) allBands s
  · rfl
  · rfl

@[simp] theorem State.takeOne_settings (budget counted : Nat) (s : State) : (s.takeOne budget counted).settings = s.settings := by
  unfold State.takeOne State.takeEntry
  split
  · rfl
  · split
    · rfl
    · rw [State.updateWork_settings, State.setWork_settings, State.dealWith_settings]
      rfl

@[simp] theorem State.releaseStep_settings (k : BandIx) (s : State) : (s.releaseStep k).settings = s.settings := by
  unfold State.releaseStep
  split
  · split <;> simp
  · rfl

@[simp] theorem State.readFrame_settings (s : State) : s.readFrame.settings = s.settings := by
  unfold State.readFrame
  split <;> rfl

/-! ### The requests that leave the settings alone -/

theorem defineWork_settings (r : DefineReq) (s : State) : (defineWork r s).settings = s.settings := by
  simp [defineWork]

theorem clearWork_settings (slot : Slot) (s : State) : (clearWork slot s).settings = s.settings := by
  unfold clearWork
  split <;> simp

theorem tradingWork_settings (kind : Byte) (state : RecState) (slot : Slot) (s : State) :
    (tradingWork kind state slot s).settings = s.settings := by
  unfold tradingWork
  split <;> simp

theorem setrefWork_settings (r : Slot × Option Nat) (s : State) : (setrefWork r s).settings = s.settings := by
  unfold setrefWork
  split <;> simp

theorem openDayWork_settings (s : State) : (openDayWork () s).settings = s.settings := by
  rw [openDayWork, State.ack_settings, State.markWhere_settings]
  rfl

theorem installWork_settings (e : DirEntry) (s : State) : (installWork e s).settings = s.settings := by
  unfold installWork
  split
  · rfl
  · split
    · rfl
    · split
      · rfl
      · split <;> rfl

theorem removeWork_settings (r : Venue × Bool × Code) (s : State) : (removeWork r s).settings = s.settings := by
  unfold removeWork
  split <;> rfl

theorem bandWork_settings (r : BandReq) (s : State) : (bandWork r s).settings = s.settings := by
  unfold bandWork
  split
  · simp
  · split <;> simp

theorem showWork_settings (r : BandIx × Shows) (s : State) : (showWork r s).settings = s.settings := by
  unfold showWork
  split
  · simp
  · split <;> simp

theorem mapWork_settings (f : Field) (s : State) : (mapWork f s).settings = s.settings := by
  unfold mapWork
  split
  · simp
  · split
    · simp
    · split <;> simp

theorem unmapWork_settings (i : EntryIx) (s : State) : (unmapWork i s).settings = s.settings := by
  unfold unmapWork
  split
  · split <;> simp
  · simp

theorem mflushWork_settings (g : FieldGroup) (s : State) : (mflushWork g s).settings = s.settings := by
  rw [mflushWork, State.ack_settings, State.updateWork_settings, State.foldl_settings (fun t k => t.refreshBand_settings k),
    State.foldl_settings State.freeEntry_settings]

theorem settextWork_settings (r : EntryIx × List Byte) (s : State) : (settextWork r s).settings = s.settings := by
  unfold settextWork
  split
  · rw [State.ack_settings, State.markEntry_settings]
    rfl
  · rfl

theorem tapetextWork_settings (text : List Byte) (s : State) : (tapetextWork text s).settings = s.settings := by
  unfold tapetextWork
  split
  · rfl
  · split <;> rfl

theorem setpalWork_settings (r : SetIx × Fin 14 × AttrIx) (s : State) : (setpalWork r s).settings = s.settings := by
  rw [setpalWork, State.handOver_settings]
  rfl

theorem continueStatus_settings (n done : Nat) (r : StatusReply) (s : State) :
    (continueStatus n done r s).settings = s.settings := by
  rw [continueStatus_eq]
  split <;> rfl

theorem releaseEntries_settings (l : List Staged) (applied : Nat) (s : State) :
    (releaseEntries l applied s).2.settings = s.settings := by
  induction l generalizing applied s with
  | nil => rfl
  | cons e l ih =>
    unfold releaseEntries
    split
    · exact ih _ _
    · rw [ih, State.applyAndPrint_settings]

theorem continueRelease_settings (n dealt applied : Nat) (s : State) :
    (continueRelease n dealt applied s).settings = s.settings := by
  unfold continueRelease
  split
  · exact s.settled_settings
  · have hd := releaseEntries_settings ((s.intake.staging.drop dealt).take n) applied s
    dsimp only
    split
    · exact hd
    · exact hd

/-! ### The Feed Watch and the Heat Scan -/

/-- What a reload makes of the Feed Watch (R53). -/
def FeedWatch.reloaded : FeedWatch → FeedWatch
  | .off => .off
  | .fresh period _ => .fresh period period
  | .stale period => .fresh period period

/-- What its expiry makes of the Feed Watch (R56). -/
def FeedWatch.expired : FeedWatch → FeedWatch
  | .off => .off
  | .fresh period _ => .stale period
  | .stale period => .stale period

theorem State.reloadFeed_settings (s : State) : s.reloadFeed.settings = { s.settings with watch := s.intake.watch.reloaded } := by
  unfold State.reloadFeed
  cases hw : s.intake.watch with
  | off => simp [State.settings, FeedWatch.reloaded, hw]
  | fresh period remaining => rfl
  | stale period => exact State.feedChanged_settings _

theorem State.expire_settings (s : State) : s.expire.settings = { s.settings with watch := s.intake.watch.expired } := by
  unfold State.expire
  cases hw : s.intake.watch with
  | off => simp [State.settings, FeedWatch.expired, hw]
  | fresh period remaining => exact State.feedChanged_settings _
  | stale period => simp [State.settings, FeedWatch.expired, hw]

theorem tickWork_settings (r : TickReq) (s : State) :
    (tickWork r s).settings = { s.settings with watch := s.intake.watch.reloaded } := by
  rw [← State.reloadFeed_settings]
  unfold tickWork State.disposeHit
  dsimp only
  split
  · split
    · exact State.applyAndPrint_settings _ _ _ _
    · split <;> rfl
  · rfl

/-- A WATCH leaves the Feed Watch FRESH with its period, whatever the state it finds (R54). -/
theorem watchWork_settings (period : Nat) (s : State) :
    (watchWork period s).settings = { s.settings with watch := .fresh period period } := by
  unfold watchWork
  split
  · rfl
  · rw [State.ack_settings, State.reloadFeed_settings]
    rfl
  · rw [State.ack_settings, State.reloadFeed_settings]
    rfl

theorem State.visit_settings (slot : Slot) (s : State) : (s.visit slot).settings = s.settings := by
  unfold State.visit
  dsimp only
  split
  · rfl
  · split
    · rfl
    · exact State.handOver_settings _ _

end Sys2Proof.Machine
end

section
/-! SUPPORT. The changes of the settings, command by command; the laws that they keep, and so every step. -/

namespace Sys2Proof.Machine

open Sys2Proof

/-! ### The ranges that the checks of the requests leave -/

/-- A request of one clamped value that passes its check has its value in the range (section 1.7). -/
theorem oneClamped_range {lo hi v : Nat} (hle : lo ≤ hi) {p : List Byte} (h : oneClamped lo hi p = .ok v) :
    lo ≤ v ∧ v ≤ hi := by
  unfold oneClamped at h
  split at h
  · cases h
  · cases h
    exact ⟨le_max_left _ _, max_le hle (min_le_right _ _)⟩

/-! ### The changes -/

/-- The change that a command makes to the settings, with what it has checked before it makes it; most commands make none. -/
inductive Settings.Change (m : Settings) : Instr → Settings → Prop where
  /-- The settings are left alone. -/
  | none {c : Instr} : Change m c m
  /-- Every block takes its reset values (R179). -/
  | reset {c : Instr} (h : c = .resetNAsserted ∨ c = .reset) : Change m c State.reset.settings
  /-- A well-formed TICK and a HEARTBEAT reload the Feed Watch (R53). -/
  | reloaded {c : Instr} (h : c = .tick ∨ c = .heartbeat) : Change m c { m with watch := m.watch.reloaded }
  /-- The Feed Watch expires (R56). -/
  | expired : Change m .feedWatchExpiry { m with watch := m.watch.expired }
  /-- WATCH (R54). -/
  | armed (period : Nat) (h : 1 ≤ period ∧ period ≤ 63) : Change m .watch { m with watch := .fresh period period }
  /-- The Heat Scan's interval is loaded (R105). -/
  | timed (interval : Option Nat) : Change m .initialisationEnd { m with scan := { m.scan with interval := interval } }
  /-- A step of the Heat Scan advances its position (R106). -/
  | scanned (interval : Option Nat) : Change m .heatScanStep { m with scan := { m.scan with
      position := nextPosition m.scan.position (scanLimit m.scan.limitCode)
      interval := interval } }
  /-- HEATCFG (R107). -/
  | reconfigured (r : HeatReq) : Change m .heatcfg { m with scan := reconfigure r m.scan }
  /-- PAINT (R126). -/
  | budgeted (budget : Nat) (h : 1 ≤ budget ∧ budget ≤ 64) : Change m .paint { m with budget := budget }
  /-- BLINK (R152). -/
  | blinkSet (period : Nat) (h : 2 ≤ period ∧ period ≤ 30) :
      Change m .blink { m with blinkPeriod := period, blinkCount := 0 }
  /-- The blink count advances at a frame start (R151). -/
  | blinked :
      Change m .frameStart { m with blinkCount := if m.blinkCount + 1 < m.blinkPeriod then m.blinkCount + 1 else 0 }

theorem Settings.Change.of_eq {m n : Settings} (h : n = m) (c : Instr) : m.Change c n := h ▸ .none

/-- The step of a request changes the settings as its work does. -/
theorem request_settings {α : Type} {c : Instr} {kind : Byte} {parse : List Byte → Except Reason α} {work : α → State → State}
    {s t : State} (hw : ∀ p a (u : State), parse p = .ok a → u.settings.Change c (work a u).settings)
    (h : request kind parse work s = .next t) : s.settings.Change c t.settings := by
  rcases request_cases h with rfl | ⟨reason, rfl⟩ | ⟨p, a, ha, rfl⟩
  · exact .of_eq s.ready_settings c
  · exact .of_eq (by simp) c
  · simpa using hw p a s.ready.takeHead ha

/-- The step of a request whose work leaves the settings alone. -/
theorem request_keeps_settings {α : Type} {c : Instr} {kind : Byte} {parse : List Byte → Except Reason α}
    {work : α → State → State} {s t : State} (hw : ∀ a (u : State), (work a u).settings = u.settings)
    (h : request kind parse work s = .next t) : s.settings.Change c t.settings :=
  request_settings (fun _ a u _ => .of_eq (hw a u) c) h

/-! ### The steps that are no requests, and those made in parts -/

theorem State.resetBlocks_settings {c : Instr} (hc : c = .resetNAsserted ∨ c = .reset) (cause : ResetCause) (phase : Phase)
    (s : State) : s.settings.Change c (s.resetBlocks cause phase).settings := .reset hc

theorem execResetNReleased_settings {rate1 rate0 : Bool} {s t : State} (h : execResetNReleased rate1 rate0 s = .next t) :
    t.settings = s.settings := by
  unfold execResetNReleased at h
  split at h <;> cases h <;> rfl

theorem execInitialisationEnd_settings {s t : State} (h : execInitialisationEnd s = .next t) :
    s.settings.Change .initialisationEnd t.settings := by
  unfold execInitialisationEnd at h
  split at h
  · cases h
    exact .timed _
  · cases h
    exact .none

theorem execRxdCharacter_settings {byte : Byte} {stopHigh : Bool} {s t : State}
    (h : execRxdCharacter byte stopHigh s = .next t) : t.settings = s.settings := by
  unfold execRxdCharacter at h
  split at h <;> cases h <;> rfl

theorem execFrameGapTimeout_settings {s t : State} (h : execFrameGapTimeout s = .next t) : t.settings = s.settings := by
  unfold execFrameGapTimeout at h
  split at h <;> cases h <;> rfl

theorem execBadFrameAdmission_settings {s t : State} (h : execBadFrameAdmission s = .next t) : t.settings = s.settings := by
  unfold execBadFrameAdmission at h
  split at h <;> cases h <;> simp

theorem execOverrunAdmission_settings {s t : State} (h : execOverrunAdmission s = .next t) : t.settings = s.settings := by
  unfold execOverrunAdmission at h
  split at h <;> cases h <;> simp

theorem execFeedNotice_settings {s t : State} (h : execFeedNotice s = .next t) : t.settings = s.settings := by
  unfold execFeedNotice at h
  split at h <;> cases h <;> simp

theorem execMissNotice_settings {s t : State} (h : execMissNotice s = .next t) : t.settings = s.settings := by
  unfold execMissNotice at h
  split at h
  · cases h
    rw [State.admissionMade_settings]
    rfl
  · cases h
    rfl

theorem execUnknownKind_settings {s t : State} (h : execUnknownKind s = .next t) : t.settings = s.settings := by
  unfold execUnknownKind at h
  split at h
  · split at h <;> cases h <;> simp
  · cases h
    exact s.ready_settings

theorem execStatus_settings {c : Instr} {n : Nat} {s t : State} (h : execStatus n s = .next t) :
    s.settings.Change c t.settings := by
  unfold execStatus at h
  split at h
  · cases h
    exact .of_eq ((continueStatus_settings _ _ _ _).trans s.settled_settings) c
  · exact request_keeps_settings (fun _ u => continueStatus_settings n 0 _ u) h
  · exact request_keeps_settings (fun _ u => continueStatus_settings n 0 _ u) h
  · cases h
    exact .of_eq s.settled_settings c

theorem execRelease_settings {c : Instr} {n : Nat} {s t : State} (h : execRelease n s = .next t) :
    s.settings.Change c t.settings := by
  unfold execRelease at h
  split at h
  · cases h
    exact .of_eq (continueRelease_settings _ _ _ _) c
  · exact request_keeps_settings (fun _ u => continueRelease_settings n 0 0 u) h
  · exact request_keeps_settings (fun _ u => continueRelease_settings n 0 0 u) h
  · cases h
    exact .of_eq s.settled_settings c

theorem execTaking_settings {s t : State} (h : execTaking s = .next t) : t.settings = s.settings := by
  unfold execTaking at h
  split at h
  · split at h <;> cases h <;> simp
  · cases h
    exact s.takeOne_settings _ _
  · cases h
    rfl
  · cases h
    rfl

theorem State.scanStep_settings (s : State) : s.settings.Change .heatScanStep s.scanStep.settings := by
  unfold State.scanStep
  split
  · have hvisit := s.visit_settings s.colour.scan.position
    dsimp only
    generalize s.visit s.colour.scan.position = t at hvisit ⊢
    have hscan : t.colour.scan = s.colour.scan := congrArg Settings.scan hvisit
    have hset : (t.setScan { t.colour.scan with
        position := nextPosition s.colour.scan.position (scanLimit s.colour.scan.limitCode)
        interval := some (scanPeriod s.colour.scan.periodCode) }).settings = { t.settings with scan := { t.colour.scan with
          position := nextPosition s.colour.scan.position (scanLimit s.colour.scan.limitCode)
          interval := some (scanPeriod s.colour.scan.periodCode) } } := rfl
    rw [hset, hvisit, hscan]
    exact .scanned _
  · exact .none

theorem Painter.resetFill_budget (p : Painter) : p.resetFill.budget = p.budget := by
  unfold Painter.resetFill
  split <;> rfl

theorem State.frameTaking_settings (s : State) : s.frameTaking.settings = s.settings := by
  simp only [State.settings, State.frameTaking, Painter.resetFill_budget, Raster.takeAttrs]

theorem Raster.advanceBlink_count (r : Raster) :
    r.advanceBlink.blinkCount = if r.blinkCount + 1 < r.blinkPeriod then r.blinkCount + 1 else 0 := by
  unfold Raster.advanceBlink
  split <;> rfl

theorem Raster.advanceBlink_period (r : Raster) : r.advanceBlink.blinkPeriod = r.blinkPeriod := by
  unfold Raster.advanceBlink
  split <;> rfl

theorem State.frameWork_settings (s : State) : s.frameWork.settings = { s.settings with
    blinkCount := if s.raster.blinkCount + 1 < s.raster.blinkPeriod then s.raster.blinkCount + 1 else 0 } := by
  rw [← Raster.advanceBlink_count, State.frameWork, State.updateWork_settings, State.setWork_settings]
  simp only [State.settings, Raster.advanceBlink_period]

theorem State.startFrame_settings (s : State) : s.settings.Change .frameStart s.startFrame.settings := by
  unfold State.startFrame
  split
  · split
    · rw [State.frameTaking_settings, State.frameWork_settings]
      exact .blinked
    · exact .of_eq s.frameTaking_settings _
  · exact .none

/-! ### Every command -/

/-- Every command makes one of the changes of the settings that are its own, or none. -/
theorem exec_settings {c : Instr} {s t : State} (h : exec c s = .next t) : s.settings.Change c t.settings := by
  cases c with
  | resetNAsserted => cases h; exact s.resetBlocks_settings (.inl rfl) .pin .held
  | resetNReleased rate1 rate0 => exact .of_eq (execResetNReleased_settings h) _
  | initialisationEnd => exact execInitialisationEnd_settings h
  | rxdCharacter byte stopHigh => exact .of_eq (execRxdCharacter_settings h) _
  | frameGapTimeout => exact .of_eq (execFrameGapTimeout_settings h) _
  | recordSent => cases h; exact .none
  | badFrameAdmission => exact .of_eq (execBadFrameAdmission_settings h) _
  | overrunAdmission => exact .of_eq (execOverrunAdmission_settings h) _
  | feedNotice => exact .of_eq (execFeedNotice_settings h) _
  | missNotice => exact .of_eq (execMissNotice_settings h) _
  | unknownKind => exact .of_eq (execUnknownKind_settings h) _
  | reset => exact request_settings (fun _ _ u _ => u.resetBlocks_settings (.inr rfl) .message .initialising) h
  | status n => exact execStatus_settings h
  | define => exact request_keeps_settings defineWork_settings h
  | clear => exact request_keeps_settings clearWork_settings h
  | halt => exact request_keeps_settings (tradingWork_settings _ _) h
  | resume => exact request_keeps_settings (tradingWork_settings _ _) h
  | setref => exact request_keeps_settings setrefWork_settings h
  | openDay => exact request_keeps_settings (fun _ u => openDayWork_settings u) h
  | install => exact request_keeps_settings installWork_settings h
  | remove => exact request_keeps_settings removeWork_settings h
  | tick => exact request_settings (fun _ r u _ => tickWork_settings r u ▸ .reloaded (.inl rfl)) h
  | release n => exact execRelease_settings h
  | heartbeat =>
    refine request_settings (fun _ _ u _ => ?_) h
    rw [State.ack_settings, State.reloadFeed_settings]
    exact .reloaded (.inr rfl)
  | watch =>
    exact request_settings (fun _ period u hp => watchWork_settings period u ▸ .armed period (oneClamped_range (by decide) hp)) h
  | feedWatchExpiry => cases h; rw [State.expire_settings, State.settled_settings, State.settled_intake]; exact .expired
  | heatScanStep => cases h; exact s.settled_settings ▸ s.settled.scanStep_settings
  | map => exact request_keeps_settings mapWork_settings h
  | unmap => exact request_keeps_settings unmapWork_settings h
  | mflush => exact request_keeps_settings mflushWork_settings h
  | settext => exact request_keeps_settings settextWork_settings h
  | setpal => exact request_keeps_settings setpalWork_settings h
  | heatcfg => exact request_settings (fun _ r _ _ => .reconfigured r) h
  | blink => exact request_settings (fun _ period _ hp => .blinkSet period (oneClamped_range (by decide) hp)) h
  | band => exact request_keeps_settings bandWork_settings h
  | showBand => exact request_keeps_settings showWork_settings h
  | paint => exact request_settings (fun _ budget _ hp => .budgeted budget (oneClamped_range (by decide) hp)) h
  | tapetext => exact request_keeps_settings tapetextWork_settings h
  | query | dflush | dprobe | mpurge | discard | mprobe | mfind | setattr | tapespeed =>
    exact request_keeps_settings (by exact fun _ _ => rfl) h
  | frameStart => cases h; exact s.settled_settings ▸ s.settled.startFrame_settings
  | bandClear k => cases h; exact .of_eq (by simp) _
  | taking => exact .of_eq (execTaking_settings h) _
  | curtainRelease k => cases h; exact .of_eq (by simp) _
  | rasterReading => cases h; exact .of_eq (by simp) _

/-! ### The law of the settings -/

/-- The settings keep their ranges (R52, R105, R125, R151). -/
structure Settings.Lawful (m : Settings) : Prop where
  watch : m.watch.Lawful
  position : m.scan.position.val < scanLimit m.scan.limitCode
  budget : 1 ≤ m.budget ∧ m.budget ≤ 64
  blink : 2 ≤ m.blinkPeriod ∧ m.blinkPeriod ≤ 30
  blinkCount : m.blinkCount < m.blinkPeriod

theorem State.settingsLawful_iff {s : State} : s.SettingsLawful ↔ s.settings.Lawful :=
  ⟨fun h => ⟨h.watch, h.position, h.budget, h.blink, h.blinkCount⟩,
    fun h => ⟨h.watch, h.position, h.budget, h.blink, h.blinkCount⟩⟩

theorem FeedWatch.Lawful.reloaded {w : FeedWatch} (h : w.Lawful) : w.reloaded.Lawful := by
  cases w with
  | off => exact h
  | fresh period remaining =>
    obtain ⟨hmin, hmax, -⟩ := h
    exact ⟨hmin, hmax, le_rfl⟩
  | stale period =>
    obtain ⟨hmin, hmax⟩ := h
    exact ⟨hmin, hmax, le_rfl⟩

theorem FeedWatch.Lawful.expired {w : FeedWatch} (h : w.Lawful) : w.expired.Lawful := by
  cases w with
  | off => exact h
  | fresh period remaining =>
    obtain ⟨hmin, hmax, -⟩ := h
    exact ⟨hmin, hmax⟩
  | stale period => exact h

theorem scanLimit_pos (limit : Fin 4) : 0 < scanLimit limit := Nat.mul_pos (by decide) (Nat.two_pow_pos _)

/-- The position after a step lies below the limit again (R106). -/
theorem nextPosition_lt (position : Slot) {limit : Nat} (h : 0 < limit) : (nextPosition position limit).val < limit := by
  unfold nextPosition
  split
  · exact (Nat.mod_le _ _).trans_lt ‹_›
  · exact h

/-- The position after a HEATCFG lies below the new limit (R107). -/
theorem reconfigure_position (r : HeatReq) (scan : HeatScan) :
    (reconfigure r scan).position.val < scanLimit (reconfigure r scan).limitCode := by
  unfold reconfigure
  dsimp only
  split
  · exact scanLimit_pos _
  · exact not_le.mp ‹_›

/-- Each change keeps the ranges. -/
theorem Settings.Lawful.change {m n : Settings} (h : m.Lawful) {c : Instr} (hc : m.Change c n) : n.Lawful := by
  cases hc with
  | none => exact h
  | reset _ => exact State.settingsLawful_iff.mp reset_settingsLawful
  | reloaded _ => exact { h with watch := h.watch.reloaded }
  | expired => exact { h with watch := h.watch.expired }
  | armed period hp => exact { h with watch := ⟨hp.1, hp.2, le_rfl⟩ }
  | timed interval => exact { h with }
  | scanned interval => exact { h with position := nextPosition_lt _ (scanLimit_pos _) }
  | reconfigured r => exact { h with position := reconfigure_position r _ }
  | budgeted budget hb => exact { h with budget := hb }
  | blinkSet period hp => exact { h with blink := hp, blinkCount := lt_of_lt_of_le Nat.two_pos hp.1 }
  | blinked =>
    refine { h with blinkCount := ?_ }
    have hblink := h.blink
    dsimp only
    split <;> omega

/-! ### The life of the Feed Watch -/

theorem FeedWatch.reloaded_eq_off {w : FeedWatch} : w.reloaded = .off ↔ w = .off := by
  cases w <;> simp [FeedWatch.reloaded]

theorem FeedWatch.expired_eq_off {w : FeedWatch} : w.expired = .off ↔ w = .off := by
  cases w <;> simp [FeedWatch.expired]

/-- No change but a reset disarms the Feed Watch. -/
theorem Settings.Change.stays_armed {m n : Settings} {c : Instr} (hc : m.Change c n) (hpin : c ≠ .resetNAsserted)
    (hreset : c ≠ .reset) (hm : m.watch ≠ .off) : n.watch ≠ .off := by
  cases hc with
  | reset h => exact absurd h (not_or.mpr ⟨hpin, hreset⟩)
  | reloaded => exact fun hn => hm (FeedWatch.reloaded_eq_off.mp hn)
  | expired => exact fun hn => hm (FeedWatch.expired_eq_off.mp hn)
  | armed => nofun
  | _ => exact hm

/-- No change but a WATCH arms the Feed Watch. -/
theorem Settings.Change.stays_off {m n : Settings} {c : Instr} (hc : m.Change c n) (hwatch : c ≠ .watch)
    (hm : m.watch = .off) : n.watch = .off := by
  cases hc with
  | reset => rfl
  | reloaded => exact FeedWatch.reloaded_eq_off.mpr hm
  | expired => exact FeedWatch.expired_eq_off.mpr hm
  | armed => exact absurd rfl hwatch
  | _ => exact hm

end Sys2Proof.Machine

open Sys2Proof Sys2Proof.Machine

/-- Settles O58: a step carries out a command, and each command's change of the settings keeps their ranges. -/
theorem settingsStayLawful : Obligations.SettingsStayLawful := by
  intro s t hs h
  unfold step at h
  split at h
  · cases h
    exact hs
  · have hchange := exec_settings h
    exact State.settingsLawful_iff.mpr ((State.settingsLawful_iff.mp hs).change hchange)

/-- Settles O30: the expiry by the state it finds, and the life of the Feed Watch by the changes of the settings. -/
theorem feedWatchLifetime : Obligations.FeedWatchLifetime := by
  refine ⟨fun s ho => ?_, fun c s t h => ⟨fun hs hpin hreset => (exec_settings h).stays_armed hpin hreset hs,
    fun hs hwatch => (exec_settings h).stays_off hwatch hs⟩⟩
  have hx : exec .feedWatchExpiry s = .next s.settled.expire := rfl
  rw [hx, State.settled_of_none ho]
  refine ⟨fun period remaining hw => ?_, fun hw => ?_⟩
  · rw [State.expire, hw, ← State.feedChanged_eq]
  · rcases hw with hw | ⟨period, hw⟩ <;> rw [State.expire, hw]
end

section
/-! SUPPORT. The requests of Quote Intake that speak of the Staging List and of the Feed Watch. -/

namespace Sys2Proof.Machine

open Sys2Proof

/-! ### HEARTBEAT and WATCH (R54, R55) -/

/-- The state code after a reload: an armed Feed Watch is FRESH (R53, R55). -/
theorem State.reloaded_code (s : State) : s.reloaded.intake.watch.code = if s.intake.watch = .off then 0 else 1 := by
  have hw : s.reloaded.intake.watch = s.intake.watch.reloaded := by
    rw [← State.reloadFeed_eq]
    exact congrArg Settings.watch s.reloadFeed_settings
  rw [hw]
  cases s.intake.watch <;> rfl

/-- A WATCH in OFF or FRESH loads the Feed Watch and does nothing else (R54). -/
theorem watchWork_of_unstale {s : State} (h : s.intake.watch = .off ∨ ∃ old remaining, s.intake.watch = .fresh old remaining)
    (period : Nat) : watchWork period s = (s.setWatch (.fresh period period)).ack Kind.watch period := by
  rcases h with h | ⟨old, remaining, h⟩
  · rw [watchWork, h]
  · rw [watchWork, h]
    rfl

/-- A WATCH in STALE loads the Feed Watch, with the effects of a recovery (R54, R57). -/
theorem watchWork_of_stale {s : State} {old : Nat} (h : s.intake.watch = .stale old) (period : Nat) :
    watchWork period s = (s.setWatch (.fresh period period)).feedTold.ack Kind.watch period := by
  rw [watchWork, h, ← State.feedChanged_eq]
  rfl

/-! ### The frame taken is not seen by marks and ticks -/

theorem State.markItems_takeHead (slot : Slot) (items : List Item) (s : State) :
    s.takeHead.markItems slot items = (s.markItems slot items).takeHead := by
  induction items generalizing s with
  | nil => rfl
  | cons a items ih =>
    have hmark : s.takeHead.markWhere (showsItem slot a) = (s.markWhere (showsItem slot a)).takeHead := by
      rw [State.markWhere_eq, State.markWhere_eq]
      rfl
    calc s.takeHead.markItems slot (a :: items)
        = (s.takeHead.markWhere (showsItem slot a)).markItems slot items := rfl
      _ = (s.markItems slot (a :: items)).takeHead := by rw [hmark, ih]; rfl

theorem State.carryOut_takeHead (m : Marks) (s : State) : s.takeHead.carryOut m = (s.carryOut m).takeHead := by
  cases m with
  | lookups slot items => exact s.markItems_takeHead slot items
  | sweep set attr =>
    rw [State.carryOut_sweep, State.carryOut_sweep]
    rfl

theorem State.settled_takeHead (s : State) : s.takeHead.settled = s.settled.takeHead := by
  have hs : s.takeHead.settled = match s.owed with
      | some m => ({ s with owed := none }.takeHead).carryOut m
      | none => s.takeHead := rfl
  rw [hs, State.settled]
  cases s.owed with
  | none => rfl
  | some m => exact State.carryOut_takeHead m _

theorem State.toldOf_takeHead (slot : Slot) (items : List Item) (s : State) :
    s.takeHead.toldOf slot items = (s.toldOf slot items).takeHead := by
  have hmay : s.takeHead.mayTake = s.mayTake := rfl
  unfold State.toldOf
  rw [hmay]
  split <;> rfl

theorem State.offerPrint_takeHead (slot : Slot) (tape : Bool) (it : TickItems) (s : State) :
    s.takeHead.offerPrint slot tape it = (s.offerPrint slot tape it).takeHead := by
  have hshown : s.takeHead.tapeShown = s.tapeShown := rfl
  unfold State.offerPrint
  rw [hshown]
  split
  · split <;> rfl
  · rfl

theorem State.applied_takeHead (slot : Slot) (tape : Bool) (it : TickItems) (s : State) :
    s.takeHead.applied slot tape it = (s.applied slot tape it).takeHead := by
  rw [State.applied, State.settled_takeHead]
  rw [State.applied, ← State.offerPrint_takeHead, ← State.toldOf_takeHead]
  rfl

/-! ### RELEASE (R48, R50) -/

/-- What a RELEASE does with one staged entry: nothing where it names an EMPTY record, else it applies the tick (R48). -/
def State.releasing (s : State) (e : Staged) : State :=
  if (s.records.get e.slot).state = .empty then s else s.applied e.slot e.tape e.items

theorem State.releasing_takeHead (s : State) (e : Staged) : s.takeHead.releasing e = (s.releasing e).takeHead := by
  unfold State.releasing
  rw [State.takeHead_records]
  split
  · rfl
  · exact s.applied_takeHead _ _ _

theorem State.foldl_releasing_takeHead (l : List Staged) (s : State) :
    l.foldl State.releasing s.takeHead = (l.foldl State.releasing s).takeHead := by
  induction l generalizing s with
  | nil => rfl
  | cons e l ih => rw [List.foldl_cons, List.foldl_cons, State.releasing_takeHead, ih]

/-- The application of a tick keeps every record's state. -/
theorem State.applied_state (slot : Slot) (tape : Bool) (it : TickItems) (s : State) (j : Slot) :
    ((s.applied slot tape it).records.get j).state = (s.records.get j).state := by
  have hrec : (s.applied slot tape it).records
      = s.records.set slot (applyItems s.colour.flashHeat it (s.records.get slot)) := by
    rw [← State.applyAndPrint_eq]
    exact congrArg Market.records (s.applyAndPrint_market slot tape it)
  obtain ⟨hstate, -⟩ := applyItems_frame s.colour.flashHeat it (s.records.get slot)
  rw [hrec, Table.get_set]
  split
  · subst j
    exact hstate
  · rfl

/-- Staged entries in turn are applied oldest first, those of records that are not EMPTY, and these are counted (R48). -/
theorem releaseEntries_eq (l : List Staged) (applied : Nat) (s : State) :
    releaseEntries l applied s =
      (applied + l.countP (fun e => decide ((s.records.get e.slot).state ≠ .empty)), l.foldl State.releasing s) := by
  induction l generalizing applied s with
  | nil => rfl
  | cons e l ih =>
    rw [List.foldl_cons, releaseEntries]
    by_cases he : (s.records.get e.slot).state = .empty
    · rw [if_pos he, ih, State.releasing, if_pos he, List.countP_cons_of_neg (by simpa using he)]
    · rw [if_neg he, ih, State.releasing, if_neg he, List.countP_cons_of_pos (by simpa using he), State.applyAndPrint_eq]
      simp only [State.applied_state]
      rw [Nat.add_assoc, Nat.add_comm 1]

/-- Where no answer is owed, dealing with staged entries leaves what is being carried out and Quote Intake, and owes none. -/
theorem State.foldl_releasing_keeps (l : List Staged) {s : State} (h : s.OwesNoAnswer) :
    (l.foldl State.releasing s).carrying = s.carrying ∧ (l.foldl State.releasing s).intake = s.intake
      ∧ (l.foldl State.releasing s).OwesNoAnswer := by
  induction l generalizing s with
  | nil => exact ⟨rfl, rfl, h⟩
  | cons e l ih =>
    rw [List.foldl_cons, State.releasing]
    split
    · exact ih h
    · rw [← State.applyAndPrint_eq]
      obtain ⟨owed, hq⟩ := State.applyAndPrint_queues h e.slot e.tape e.items
      obtain ⟨-, hcarry, -, hintake, -⟩ := State.queues_inj (s := { s with owed := owed }) hq
      obtain ⟨hc, hi, ho⟩ := ih (s.applyAndPrint_owesNoAnswer e.slot e.tape e.items)
      exact ⟨hc.trans hcarry, hi.trans hintake, ho⟩

/-- The end of a RELEASE whose frame has been taken empties the Staging List and answers (R48). -/
theorem State.endRelease_takeHead {s : State} (hidle : s.carrying = .idle) (applied : Nat) : s.takeHead.endRelease applied =
    { s with intake := { s.intake with staging := [] } }.answered (.ack 0x19 applied) := by
  have hs : s = s.withCarrying .idle := by rw [← hidle]; rfl
  rw [hs]
  rfl

/-- The end of a RELEASE with the marks still to come sent first, where no answer is owed. -/
theorem State.endRelease_settled {s : State} (hidle : s.carrying = .idle) (h : s.OwesNoAnswer) (applied : Nat) :
    s.settled.takeHead.endRelease applied =
      { s.settled with intake := { s.intake with staging := [] } }.answered (.ack 0x19 applied) := by
  obtain ⟨-, hcarry, -⟩ := State.queues_inj (s := { s with owed := none }) (State.settled_queues h)
  rw [State.endRelease_takeHead (hcarry.trans hidle), State.settled_intake]

/-- A RELEASE that deals with all the staged entries, its frame taken, has them applied, and ends or holds. -/
theorem continueRelease_all {n : Nat} {s : State} (hne : s.intake.staging ≠ []) (hn : s.intake.staging.length ≤ n) :
    continueRelease n 0 0 s.takeHead = endOrHold s.intake.staging.length n
      (s.intake.staging.countP (fun e => decide ((s.records.get e.slot).state ≠ .empty)),
        (s.intake.staging.foldl State.releasing s).takeHead) := by
  rw [continueRelease_of_lt (s := s.takeHead) (List.length_pos_iff.mpr hne), Nat.zero_add, List.drop_zero, State.takeHead_intake,
    List.take_of_length_le hn, releaseEntries_eq, Nat.zero_add, State.foldl_releasing_takeHead, State.takeHead_records]

/-- A RELEASE with no entry left to deal with sends the marks still to come, and ends. -/
theorem continueRelease_of_le {dealt : Nat} {s : State} (h : s.intake.staging.length ≤ dealt) (n applied : Nat) :
    continueRelease n dealt applied s = s.settled.endRelease applied := if_pos h

/-- A RELEASE that has dealt with all the staged entries, and found marks still to come, ends at its next step (R50, R60). -/
theorem execRelease_held {s : State} {n : Nat} (h : s.OwesNoAnswer) (hn : s.intake.staging.length ≤ n) (m applied : Nat) :
    exec (.release m) (s.takeHead.withCarrying (.release n applied)) = .next (s.settled.takeHead.endRelease applied) := by
  have hx : exec (.release m) (s.takeHead.withCarrying (.release n applied)) =
      .next (continueRelease m n applied (s.takeHead.withCarrying (.release n applied))) := rfl
  rw [hx, continueRelease_of_le (s := s.takeHead.withCarrying _) hn, State.settled_withCarrying (s := s.takeHead) h, State.settled_takeHead]
  rfl

end Sys2Proof.Machine

open Sys2Proof Sys2Proof.Machine

/-- Settles O26: the entries are dealt with in one run, and the RELEASE ends at once, or after the marks still to come. -/
theorem releaseAppliesStaged : Obligations.ReleaseAppliesStaged := by
  rintro s u t n m count h hn hu hcount ht
  obtain rfl : u = s.intake.staging.foldl State.releasing s := hu
  obtain ⟨hcarry, hintake, howes⟩ :=
    State.foldl_releasing_keeps s.intake.staging (owesNoAnswer_of_owed_none (owed_of_offers h))
  have hend := State.endRelease_settled (hcarry.trans (carrying_of_offers h)) howes count
  rw [hintake, ← ht] at hend
  have hx : exec (.release n) s = .next (continueRelease n 0 0 s.takeHead) :=
    (execRelease_eq_request (.inl (carrying_of_offers h)) n).trans (request_ok h (a := ()) rfl)
  by_cases hnil : s.intake.staging = []
  · have hnone : (s.intake.staging.foldl State.releasing s).owed = none := by rw [hnil]; exact owed_of_offers h
    refine ⟨fun _ => ?_, fun hu => absurd hnone hu⟩
    have hempty : s.intake.staging.length ≤ 0 := by rw [hnil, List.length_nil]
    rw [hx, ← hend, hcount, hnil, continueRelease_of_le (s := s.takeHead) hempty, State.settled_takeHead]
    rfl
  · rw [continueRelease_all hnil hn, ← hcount] at hx
    refine ⟨fun hu => ?_, fun hu => ⟨?_, ?_⟩⟩
    · rw [hx, endOrHold, if_pos ⟨hn, hu⟩, ← hend, State.settled_of_none hu]
    · rw [hx, endOrHold, if_neg fun hfull => hu hfull.2]
      rfl
    · rw [← hend]
      exact execRelease_held howes (by rw [hintake]; exact hn) m count

/-- Settles O27, by whether there is a payload. -/
theorem discardEmptiesStaging : Obligations.DiscardEmptiesStaging := by
  intro s p h
  refine ⟨fun hp => ?_, fun hp => (lengthAndRangeChecks s .discard 0x1A p rfl h).1 (by simp [lengthOk, hp])⟩
  subst p
  exact request_ok h (a := ()) rfl

/-- Settles O28, by whether there is a payload: the code acknowledged is that of the state after the reload. -/
theorem heartbeatReloads : Obligations.HeartbeatReloads := by
  intro s p h
  refine ⟨fun hp => ?_, fun hp => (lengthAndRangeChecks s .heartbeat 0x1B p rfl h).1 (by simp [lengthOk, hp])⟩
  subst p
  refine (request_ok h (a := ()) rfl).trans (congrArg _ ?_)
  rw [State.reloadFeed_eq, State.reloaded_takeHead, State.takeHead_intake, State.reloaded_code]
  rfl

/-- Settles O29: a payload of one byte is a clamped period, which WATCH loads by the state it finds. -/
theorem watchArms : Obligations.WatchArms := by
  intro s p h
  refine ⟨fun hp => (lengthAndRangeChecks s .watch 0x1C p rfl h).1 (by simp [lengthOk, hp]),
    fun value period hv hp hperiod => ?_⟩
  subst p hperiod
  have hx : exec .watch s = .next (watchWork (max 1 (min value 63)) s.takeHead) := request_ok h (parse_one 1 63 value hv)
  rw [hx]
  refine ⟨fun hw => ?_, fun ⟨old, hw⟩ => ?_⟩
  · rw [watchWork_of_unstale (s := s.takeHead) hw]
    rfl
  · rw [watchWork_of_stale (s := s.takeHead) hw]
    rfl
end

section
/-! SUPPORT. The items of the Tape Queue: TAPETEXT and the prints of ticks, and the length of a print. -/

namespace Sys2Proof.Machine

open Sys2Proof

/-! ### Whether a band shows the tape (R155) -/

theorem State.tapeShown_eq_true {s : State} : s.tapeShown = true ↔ ∃ k, (s.bands.get k).shows = .tape := by
  simp [State.tapeShown, Table.any_eq_true]

theorem State.tapeShown_eq_false {s : State} : s.tapeShown = false ↔ ∀ k, (s.bands.get k).shows ≠ .tape := by
  simp [State.tapeShown, Table.any_eq_false]

/-! ### Prints (R44, R156, R157) -/

/-- Only a tick with TAPE and a LAST item, while a band shows TAPE, makes a print. -/
theorem State.offerPrint_of_none {s : State} {tape : Bool} {it : TickItems}
    (h : tape = false ∨ it.last = none ∨ s.tapeShown = false) (slot : Slot) : s.offerPrint slot tape it = s := by
  unfold State.offerPrint
  split
  · rename_i price size hlast
    refine if_neg fun ⟨htape, hshown⟩ => ?_
    rcases h with h | h | h
    · rw [h] at htape; cases htape
    · rw [h] at hlast; cases hlast
    · rw [h] at hshown; cases hshown
  · rfl

/-- The print of a tick with TAPE and a LAST item, while a band shows TAPE, is offered to the Tape Unit. -/
theorem State.offerPrint_of_last {s : State} {it : TickItems} {price size : Nat} (h : it.last = some (price, size))
    (hshown : s.tapeShown = true) (slot : Slot) :
    s.offerPrint slot true it = { s with tape := s.tape.enqueuePrint (s.records.get slot) size } := by
  rw [State.offerPrint, h]
  exact if_pos ⟨rfl, hshown⟩

theorem Tape.enqueuePrint_of_lt {t : Tape} (h : t.queue.length < Config.tapeCapacity) (q : Quote) (size : Nat) :
    t.enqueuePrint q size = { t with queue := t.queue ++ [printText q size t.queue.length] } := if_pos h

theorem Tape.enqueuePrint_of_le {t : Tape} (h : Config.tapeCapacity ≤ t.queue.length) (q : Quote) (size : Nat) :
    t.enqueuePrint q size = { t with late := true } := if_neg (not_lt.mpr h)

/-! ### The length of a print (R80, R156) -/

@[simp] theorem length_padded (k n : Nat) : (padded k n).length = k := by
  induction k generalizing n with
  | zero => rfl
  | succ k ih => simp [padded, ih]

theorem one_le_length_digits (fuel n : Nat) : 1 ≤ (digits (fuel + 1) n).length := by
  rw [digits]
  split <;> simp

/-- A number below a power of ten has at most so many digits. -/
theorem length_digits_le (fuel : Nat) {n k : Nat} (h : n < 10 ^ (k + 1)) : (digits fuel n).length ≤ k + 1 := by
  induction fuel generalizing n k with
  | zero => exact Nat.zero_le _
  | succ fuel ih =>
    rw [digits]
    split
    · simp
    · rename_i hten
      cases k with
      | zero => omega
      | succ k =>
        have hdiv : n / 10 < 10 ^ (k + 1) := Nat.div_lt_of_lt_mul (by rwa [pow_succ'] at h)
        rw [List.length_append, List.length_singleton]
        exact Nat.succ_le_succ (ih hdiv)

theorem length_decimal_le {n k : Nat} (h : n < 10 ^ (k + 1)) : (decimal n).length ≤ k + 1 := length_digits_le _ h

theorem one_le_length_decimal (n : Nat) : 1 ≤ (decimal n).length := one_le_length_digits _ _

/-- A price in Dn, n at most 6, takes at most 10 characters (R63). -/
theorem length_decText_le {n v : Nat} (hn : n ≤ 6) (hv : v ≤ 999999999) : (decText n v).length ≤ 10 := by
  have hdiv : v / 10 ^ n < 10 ^ (8 - n + 1) := by
    apply Nat.div_lt_of_lt_mul
    rw [← pow_add, show n + (8 - n + 1) = 9 by omega]
    omega
  have hint := length_decimal_le hdiv
  rw [decText, List.length_append]
  split
  · rw [List.length_nil]
    omega
  · rw [List.length_cons, length_padded]
    omega

/-- A price takes between 1 and 12 characters, whatever its format (R63 to R66). -/
theorem length_naturalPrice (format : Format) {v : Nat} (hv : v ≤ 999999999) :
    1 ≤ (naturalPrice format v).length ∧ (naturalPrice format v).length ≤ 12 := by
  cases format with
  | dec n =>
    have hmin : 1 ≤ (decText n.val v).length := by
      rw [decText, List.length_append]
      have := one_le_length_decimal (v / 10 ^ n.val)
      omega
    have hmax := length_decText_le (Nat.le_of_lt_succ n.isLt) hv
    exact ⟨hmin, hmax.trans (by decide)⟩
  | f32h =>
    have hint := length_decimal_le (n := v / 64) (k := 7) (by omega)
    have hsign : (if v % 64 % 2 = 1 then [(0x2B : Byte)] else []).length ≤ 1 := by split <;> simp
    simp only [naturalPrice, f32hText, List.length_append, List.length_cons, length_padded]
    omega
  | f32e =>
    have hint := length_decimal_le (n := v / 256) (k := 6) (by omega)
    simp only [naturalPrice, f32eText, List.length_append, List.length_cons, length_padded, List.length_nil]
    omega
  | f8 =>
    have hint := length_decimal_le (n := v / 8) (k := 8) (by omega)
    simp only [naturalPrice, f8Text, List.length_append, List.length_cons, List.length_nil]
    omega

/-- What fits a width, or fills it, takes no more than it. -/
theorem length_rightJustify_text (w : Nat) (candidates : List (List Byte)) : (rightJustify w candidates).text.length ≤ w := by
  unfold rightJustify
  split
  · rename_i t ht
    simpa using List.find?_some ht
  · simp

theorem length_compactSize (size : Nat) : (compactSize size).length ≤ 5 := length_rightJustify_text 5 _

theorem length_arrow (d : Direction) : (arrow d).length ≤ 1 := by cases d <;> decide

/-- The size part of a print: a space and the compact size text, or nothing. -/
theorem length_sizePart (size depth : Nat) :
    (if 0 < size ∧ depth < 32 then (0x20 : Byte) :: compactSize size else []).length ≤ 6 := by
  split
  · exact Nat.succ_le_succ (length_compactSize size)
  · exact Nat.zero_le _

/-- The last price of a lawful record, or 0 in its absence, is a price. -/
theorem Quote.Lawful.lastPrice {q : Quote} (h : q.Lawful) : q.last.getD 0 ≤ 999999999 := by
  cases hl : q.last with
  | none => exact Nat.zero_le _
  | some v => exact h.prices q.last List.mem_cons_self v hl

/-- A print of a lawful record that is not EMPTY takes between 6 and 31 characters (R156). -/
theorem length_printText {q : Quote} (h : q.Lawful) (hq : q.state ≠ .empty) (size depth : Nat) :
    6 ≤ (printText q size depth).length ∧ (printText q size depth).length ≤ 31 := by
  have hsymbol : 1 ≤ q.symbol.length := List.length_pos_iff.mpr (h.symbolPresent hq)
  have hmax := h.symbolLength
  obtain ⟨hprice, hlong⟩ := length_naturalPrice q.format h.lastPrice
  have harrow := length_arrow q.direction
  have hsize := length_sizePart size depth
  have hgap : tapeGap.length = 3 := rfl
  rw [printText]
  simp only [List.length_append, List.length_singleton, hgap]
  omega

/-! ### TAPETEXT (R158) -/

/-- The step of a TAPETEXT of 1..32 characters. -/
theorem execTapetext_of_offers {s : State} {text : List Byte} (h1 : 1 ≤ text.length) (h32 : text.length ≤ 32)
    (h : s.Offers 0x38 (beBytes 1 text.length ++ text)) :
    exec .tapetext s = .next (tapetextWork (text.map sanitise) s.takeHead) := request_ok h (parse_tapetext text h1 h32)

theorem tapetextWork_unshown {s : State} (h : s.tapeShown = false) (text : List Byte) :
    tapetextWork text s = s.reject Kind.tapetext .badState := if_pos h

theorem tapetextWork_full {s : State} (h : s.tapeShown = true) (hfull : Config.tapeCapacity ≤ s.tape.queue.length) (text : List Byte) :
    tapetextWork text s = { s with tape := { s.tape with late := true } }.reject Kind.tapetext .full := by
  rw [tapetextWork, if_neg (by simp [h]), if_neg (not_lt.mpr hfull)]

theorem tapetextWork_room {s : State} (h : s.tapeShown = true) (hroom : s.tape.queue.length < Config.tapeCapacity) (text : List Byte) :
    tapetextWork text s = { s with tape := { s.tape with queue := s.tape.queue ++ [text ++ tapeGap] } }.ack Kind.tapetext
      (s.tape.queue.length + 1) := by
  rw [tapetextWork, if_neg (by simp [h]), if_pos hroom]

end Sys2Proof.Machine

open Sys2Proof Sys2Proof.Machine

/-- Settles O50: TAPETEXT and the prints by whether a band shows TAPE and by the depth, and the lengths of a print's parts. -/
theorem tapeTakesItems : Obligations.TapeTakesItems := by
  refine ⟨fun s text h1 h32 h => ?_, fun s slot tape it hnone => ?_, fun s slot it price size q hlast hshown hq => ?_,
    fun q size depth hlaw hq _ => length_printText hlaw hq size depth⟩
  · rw [execTapetext_of_offers h1 h32 h]
    refine ⟨fun hnone => ?_, fun hshown => ⟨fun hfull => ?_, fun hroom => ?_⟩⟩
    · rw [tapetextWork_unshown (s := s.takeHead) (State.tapeShown_eq_false.mpr hnone)]
      rfl
    · rw [tapetextWork_full (s := s.takeHead) (State.tapeShown_eq_true.mpr hshown) hfull]
      rfl
    · rw [tapetextWork_room (s := s.takeHead) (State.tapeShown_eq_true.mpr hshown) hroom]
      rfl
  · rw [← State.tapeShown_eq_false] at hnone
    exact State.offerPrint_of_none hnone slot
  · subst hq
    rw [State.offerPrint_of_last hlast (State.tapeShown_eq_true.mpr hshown)]
    refine ⟨fun hfull => ?_, fun hroom => ?_⟩
    · rw [Tape.enqueuePrint_of_le hfull]
    · rw [Tape.enqueuePrint_of_lt hroom]
      rfl
end

section
/-! SUPPORT. The texts of the Formatter: a number in decimal from its digits, and the natural text of a price in each format. -/

namespace Sys2Proof.Machine

open Sys2Proof

/-! ### Numbers as text (R62, R63) -/

/-- With enough fuel the digits of a positive number are all of its decimal digits, the most significant first. -/
theorem digits_eq_digits (fuel : Nat) {n : Nat} (hpos : 0 < n) (hfuel : n < fuel) :
    digits fuel n = (Nat.digits 10 n).reverse.map digitByte := by
  induction fuel generalizing n with
  | zero => exact absurd hfuel (Nat.not_lt_zero n)
  | succ fuel ih =>
    rw [digits]
    split
    · rename_i hten
      rw [Nat.digits_of_lt 10 n hpos.ne' hten]
      rfl
    · have hdiv : digits fuel (n / 10) = (Nat.digits 10 (n / 10)).reverse.map digitByte := ih (by omega) (by omega)
      rw [hdiv, Nat.digits_def' (by decide) hpos, List.reverse_cons, List.map_append]
      rfl

theorem decimal_eq_decimalText (n : Nat) : decimal n = decimalText n := by
  rw [decimalText]
  split
  · rename_i hzero
    rw [hzero]
    rfl
  · rename_i hpos
    exact digits_eq_digits (n + 1) (Nat.pos_of_ne_zero hpos) n.lt_succ_self

/-- Only the last k digits of a number enter its text of exactly k digits. -/
theorem padded_mod (k n : Nat) : padded k (n % 10 ^ k) = padded k n := by
  induction k generalizing n with
  | zero => rfl
  | succ k ih =>
    have hdiv : n % 10 ^ (k + 1) / 10 = n / 10 % 10 ^ k := by rw [pow_succ', Nat.mod_mul_right_div_self]
    have hmod : n % 10 ^ (k + 1) % 10 = n % 10 := Nat.mod_mod_of_dvd n (dvd_pow_self 10 k.succ_ne_zero)
    rw [padded, padded, hdiv, hmod, ih]

/-- The j-th of exactly k digits is that of the place k − 1 − j. -/
theorem padded_eq_map_range (k n : Nat) :
    padded k n = (List.range k).map (fun j => digitByte (n / 10 ^ (k - 1 - j) % 10)) := by
  induction k generalizing n with
  | zero => rfl
  | succ k ih =>
    rw [padded, ih, List.range_succ, List.map_append]
    congr 1
    · refine List.map_congr_left fun j hj => ?_
      have hplace : k + 1 - 1 - j = k - 1 - j + 1 := by have := List.mem_range.mp hj; omega
      rw [hplace, pow_succ', Nat.div_div_eq_div_mul]
    · simp

/-- A number below 100 in exactly two digits. -/
theorem padded_two {n : Nat} (h : n < 100) : padded 2 n = [digitByte (n / 10), digitByte (n % 10)] := by
  have htens : n / 10 % 10 = n / 10 := Nat.mod_eq_of_lt (by omega)
  simp [padded, htens]

/-! ### Prices (R63 to R66) -/

theorem decText_eq (n v : Nat) : decText n v = decimalText (v / 10 ^ n)
    ++ (if n = 0 then [] else 0x2E :: (List.range n).map (fun j => digitByte (v / 10 ^ (n - 1 - j) % 10))) := by
  rw [decText, decimal_eq_decimalText, padded_mod, padded_eq_map_range]

theorem f32hText_eq (v : Nat) : f32hText v = decimalText (v / 64)
    ++ [0x2D, digitByte (v % 64 / 2 / 10), digitByte (v % 64 / 2 % 10)] ++ (if v % 64 % 2 = 1 then [0x2B] else []) := by
  rw [f32hText, decimal_eq_decimalText, padded_two (by omega)]

theorem f32eText_eq (v : Nat) : f32eText v = decimalText (v / 256)
    ++ [0x2D, digitByte (v % 256 / 8 / 10), digitByte (v % 256 / 8 % 10),
      if v % 256 % 8 = 4 then 0x2B else digitByte (v % 256 % 8)] := by
  rw [f32eText, decimal_eq_decimalText, padded_two (by omega), List.append_assoc]
  rfl

theorem f8Text_eq (v : Nat) : f8Text v = decimalText (v / 8) ++ [0x2D, digitByte (v % 8)] := by
  rw [f8Text, decimal_eq_decimalText]

end Sys2Proof.Machine

open Sys2Proof Sys2Proof.Machine

/-- Settles O34: the text of each format from the decimal digits of its parts. -/
theorem priceNotations : Obligations.PriceNotations := by
  refine fun v => ⟨fun n => ?_, f32hText_eq v, f32eText_eq v, f8Text_eq v⟩
  rw [naturalPrice, decText_eq]
  simp only [Fin.val_eq_zero_iff]
  rfl
end

section
/-! SUPPORT. What the Formatter hands over: its texts fill the width and are printable, and their candidates are rounded and shortened. -/

namespace Sys2Proof.Machine

open Sys2Proof

/-! ### Printable texts (R59) -/

theorem printable_digitByte {d : Nat} (h : d < 10) : printable (digitByte d) = true := by
  rw [digitByte, printable, decide_eq_true_iff, BitVec.toNat_ofNat]
  omega

theorem printable_digits (fuel n : Nat) : ∀ b ∈ digits fuel n, printable b = true := by
  induction fuel generalizing n with
  | zero => exact List.forall_mem_nil _
  | succ fuel ih =>
    rw [digits]
    split
    · exact List.forall_mem_singleton.mpr (printable_digitByte ‹_›)
    · exact List.forall_mem_append.mpr
        ⟨ih (n / 10), List.forall_mem_singleton.mpr (printable_digitByte (n.mod_lt (by decide)))⟩

theorem printable_decimal (n : Nat) : ∀ b ∈ decimal n, printable b = true := printable_digits _ _

theorem printable_padded (k n : Nat) : ∀ b ∈ padded k n, printable b = true := by
  induction k generalizing n with
  | zero => exact List.forall_mem_nil _
  | succ k ih =>
    exact List.forall_mem_append.mpr
      ⟨ih (n / 10), List.forall_mem_singleton.mpr (printable_digitByte (n.mod_lt (by decide)))⟩

theorem printable_decText (n v : Nat) : ∀ b ∈ decText n v, printable b = true := by
  refine List.forall_mem_append.mpr ⟨printable_decimal _, ?_⟩
  split
  · exact List.forall_mem_nil _
  · exact List.forall_mem_cons.mpr ⟨by decide, printable_padded _ _⟩

theorem printable_f32hText (v : Nat) : ∀ b ∈ f32hText v, printable b = true := by
  refine List.forall_mem_append.mpr
    ⟨List.forall_mem_append.mpr ⟨printable_decimal _, List.forall_mem_cons.mpr ⟨by decide, printable_padded _ _⟩⟩, ?_⟩
  split
  · decide
  · exact List.forall_mem_nil _

theorem printable_f32eText (v : Nat) : ∀ b ∈ f32eText v, printable b = true := by
  refine List.forall_mem_append.mpr
    ⟨List.forall_mem_append.mpr ⟨printable_decimal _, List.forall_mem_cons.mpr ⟨by decide, printable_padded _ _⟩⟩, ?_⟩
  rw [List.forall_mem_singleton]
  split
  · decide
  · exact printable_digitByte (by omega)

theorem printable_f8Text (v : Nat) : ∀ b ∈ f8Text v, printable b = true :=
  List.forall_mem_append.mpr ⟨printable_decimal _, List.forall_mem_cons.mpr
    ⟨by decide, List.forall_mem_singleton.mpr (printable_digitByte (by omega))⟩⟩

theorem printable_naturalPrice (format : Format) (v : Nat) : ∀ b ∈ naturalPrice format v, printable b = true := by
  cases format with
  | dec n => exact printable_decText _ _
  | f32h => exact printable_f32hText v
  | f32e => exact printable_f32eText v
  | f8 => exact printable_f8Text v

theorem printable_signBytes (last reference : Nat) : ∀ b ∈ signBytes last reference, printable b = true := by
  unfold signBytes
  split
  · decide
  · split <;> decide

/-! ### The candidates of each item -/

/-- A decimal price is tried in fewer and fewer places, each text rounded from the original count (R67). -/
theorem priceCandidates_dec (n : Fin 7) (v : Nat) : priceCandidates (.dec n) v =
    (List.range (n.val + 1)).map (fun j => naturalPrice (.dec (Fin.ofNat 7 (n.val - j))) (roundOff j v)) := by
  refine List.map_congr_left fun j _ => ?_
  have hplaces : (Fin.ofNat 7 (n.val - j)).val = n.val - j := Nat.mod_eq_of_lt (by omega)
  rw [naturalPrice, hplaces]

/-- A fractional price has one candidate (R69). -/
theorem priceCandidates_fractional {f : Format} (h : f ∈ [Format.f32h, .f32e, .f8]) (v : Nat) :
    priceCandidates f v = [naturalPrice f v] := by
  cases f with
  | dec n => simp at h
  | f32h | f32e | f8 => rfl

theorem printable_priceCandidates (format : Format) (v : Nat) :
    ∀ t ∈ priceCandidates format v, ∀ b ∈ t, printable b = true := by
  cases format with
  | dec n => exact List.forall_mem_map.mpr fun j _ => printable_decText _ _
  | f32h | f32e | f8 => exact List.forall_mem_singleton.mpr (printable_naturalPrice _ v)

/-- The sign of a change is "+" above the reference and "-" below it (R72). -/
theorem signBytes_of_ne {last reference : Nat} (h : last ≠ reference) :
    signBytes last reference = [if reference < last then 0x2B else 0x2D] := by
  by_cases h' : reference < last
  · simp [signBytes, h']
  · simp [signBytes, h', lt_of_le_of_ne (not_lt.mp h') h]

theorem netCandidates_eq (f : Format) (last reference w : Nat) : netCandidates f last reference w =
    if last = reference then [if 4 ≤ w then [0x55, 0x4E, 0x43, 0x48] else [0x30]]
    else (priceCandidates f (changeMagnitude last reference)).map (fun t => (if reference < last then 0x2B else 0x2D) :: t) := by
  unfold netCandidates
  split
  · rfl
  · rw [signBytes_of_ne ‹_›]
    rfl

theorem printable_netCandidates (format : Format) (last reference w : Nat) :
    ∀ t ∈ netCandidates format last reference w, ∀ b ∈ t, printable b = true := by
  unfold netCandidates
  split
  · rw [List.forall_mem_singleton]
    split <;> decide
  · exact List.forall_mem_map.mpr fun t ht =>
      List.forall_mem_append.mpr ⟨printable_signBytes _ _, printable_priceCandidates _ _ t ht⟩

theorem printable_percentCandidates {sign : List Byte} (hsign : ∀ b ∈ sign, printable b = true) (m : Nat) :
    ∀ t ∈ percentCandidates sign m, ∀ b ∈ t, printable b = true := by
  have hsg : ∀ b ∈ (if min m 99999 = 0 then [] else sign), printable b = true := by
    split
    · exact List.forall_mem_nil _
    · exact hsign
  have hsuffix : printable (if 99999 < m then 0x3E else 0x25) = true := by split <;> decide
  have hnumber (n v : Nat) : ∀ b ∈ (if min m 99999 = 0 then [] else sign) ++ decText n v, printable b = true :=
    List.forall_mem_append.mpr ⟨hsg, printable_decText n v⟩
  unfold percentCandidates
  simp only [List.forall_mem_cons]
  exact ⟨List.forall_mem_append.mpr ⟨hnumber _ _, List.forall_mem_singleton.mpr hsuffix⟩, hnumber _ _, hnumber _ _, hnumber _ _,
    List.forall_mem_nil _⟩

theorem printable_volumeCandidates (v : Nat) : ∀ t ∈ volumeCandidates v, ∀ b ∈ t, printable b = true := by
  have hunit (n : Nat) {unit : Byte} (h : printable unit = true) : ∀ b ∈ decimal n ++ [unit], printable b = true :=
    List.forall_mem_append.mpr ⟨printable_decimal n, List.forall_mem_singleton.mpr h⟩
  unfold volumeCandidates
  simp only [List.forall_mem_cons]
  exact ⟨printable_decimal v, hunit _ (by decide), hunit _ (by decide), hunit _ (by decide), List.forall_mem_nil _⟩

/-- A percent of magnitude 0 has no sign, whatever the clamp, and a greater one keeps it (R74, R75). -/
theorem percentCandidates_eq (sign : List Byte) {m p : Nat} (hp : p = min m 99999) :
    percentCandidates (if m = 0 then [] else sign) m =
      [(if m = 0 then [] else sign) ++ naturalPrice (.dec 2) p ++ [if 99999 < m then 0x3E else 0x25],
        (if m = 0 then [] else sign) ++ naturalPrice (.dec 2) p,
        (if m = 0 then [] else sign) ++ naturalPrice (.dec 1) (min ((p + 5) / 10) 9999),
        (if m = 0 then [] else sign) ++ naturalPrice (.dec 0) (min ((p + 50) / 100) 999)] := by
  subst hp
  have hsign : (if min m 99999 = 0 then [] else if m = 0 then [] else sign) = if m = 0 then [] else sign := by
    by_cases hm : m = 0
    · simp [hm]
    · rw [if_neg (by omega)]
  rw [percentCandidates, hsign]
  rfl

/-- No percent text shows more than 999.99 (R74, R75). -/
theorem percentCandidates_le (sign : List Byte) (m : Nat) : ∀ t ∈ percentCandidates sign m,
    ∃ places q : Nat, ∃ before after : List Byte,
      places ≤ 2 ∧ q * 10 ^ (2 - places) ≤ 99999 ∧ (before = [] ∨ before = sign) ∧ (after = [] ∨ after = [0x25] ∨ after = [0x3E])
        ∧ t = before ++ decText places q ++ after := by
  have hsg : (if min m 99999 = 0 then [] else sign) = [] ∨ (if min m 99999 = 0 then [] else sign) = sign := by split <;> simp
  have hsuffix : [if 99999 < m then (0x3E : Byte) else 0x25] = [0x25] ∨ [if 99999 < m then (0x3E : Byte) else 0x25] = [0x3E] := by
    split <;> simp
  unfold percentCandidates
  simp only [List.forall_mem_cons]
  refine ⟨⟨2, _, _, _, le_rfl, ?_, hsg, .inr hsuffix, rfl⟩, ⟨2, _, _, [], le_rfl, ?_, hsg, .inl rfl, (List.append_nil _).symm⟩,
    ⟨1, _, _, [], by decide, ?_, hsg, .inl rfl, (List.append_nil _).symm⟩,
    ⟨0, _, _, [], by decide, ?_, hsg, .inl rfl, (List.append_nil _).symm⟩, List.forall_mem_nil _⟩ <;> omega

theorem volumeCandidates_eq (v : Nat) : volumeCandidates v = [decimalText v, decimalText ((v + 500) / 1000) ++ [0x4B],
    decimalText ((v + 500000) / 1000000) ++ [0x4D], decimalText ((v + 500000000) / 1000000000) ++ [0x42]] := by
  simp only [volumeCandidates, decimal_eq_decimalText]

/-! ### Rounding (R67, R71, R73) -/

/-- The quotient of a + p / 2 by p is a / p rounded to a whole number with halves up, also where p is odd. -/
theorem roundHalfUp_bounds {a p q : Nat} (hlow : p * q ≤ a + p / 2) (hhigh : a + p / 2 < p * (q + 1)) :
    2 * p * q ≤ 2 * a + p ∧ 2 * a + p < 2 * p * (q + 1) := by
  rw [mul_assoc, mul_assoc]
  omega

theorem roundOff_bounds (j v : Nat) :
    2 * 10 ^ j * roundOff j v ≤ 2 * v + 10 ^ j ∧ 2 * v + 10 ^ j < 2 * 10 ^ j * (roundOff j v + 1) :=
  roundHalfUp_bounds (Nat.mul_div_le _ _) (Nat.lt_mul_div_succ _ (Nat.pow_pos (by decide)))

theorem changeMagnitude_eq (last reference : Nat) : changeMagnitude last reference = max last reference - min last reference := by
  unfold changeMagnitude
  omega

theorem percentMagnitude_bounds (last : Nat) {reference : Nat} (h : 0 < reference) :
    2 * reference * percentMagnitude last reference ≤ 2 * changeMagnitude last reference * 10000 + reference
      ∧ 2 * changeMagnitude last reference * 10000 + reference < 2 * reference * (percentMagnitude last reference + 1) :=
  ⟨Nat.mul_div_le _ _, Nat.lt_mul_div_succ _ (by omega)⟩

/-! ### Fitting (R62) -/

/-- Right justification takes the first candidate that fits. -/
theorem rightJustify_of_fits {w : Nat} {long : List (List Byte)} (rest : List (List Byte)) {t : List Byte}
    (hlong : ∀ x ∈ long, w < x.length) (ht : t.length ≤ w) : rightJustify w (long ++ t :: rest) = ⟨w - t.length, t, 0⟩ := by
  have hnone : long.find? (fun x => decide (x.length ≤ w)) = none :=
    List.find?_eq_none.mpr fun x hx => by simpa using hlong x hx
  have hfit : firstFit w (long ++ t :: rest) = some t := by
    rw [firstFit, List.find?_append, hnone, Option.none_or, List.find?_cons_of_pos (by simpa using ht)]
  rw [rightJustify, hfit]

/-- Right justification fills the width with "#" where no candidate fits. -/
theorem rightJustify_of_long {w : Nat} {long : List (List Byte)} (hlong : ∀ x ∈ long, w < x.length) :
    rightJustify w long = ⟨0, List.replicate w 0x23, 0⟩ := by
  have hnone : firstFit w long = none := List.find?_eq_none.mpr fun x hx => by simpa using hlong x hx
  rw [rightJustify, hnone]

theorem length_rightJustify_chars (w : Nat) (candidates : List (List Byte)) : (rightJustify w candidates).chars.length = w := by
  unfold rightJustify
  split
  · rename_i t ht
    have hle : t.length ≤ w := by simpa using List.find?_some ht
    simp [Fitted.chars, hle]
  · simp [Fitted.chars]

theorem length_leftJustify_chars (w : Nat) (t : List Byte) : (leftJustify w t).chars.length = w := by
  simp only [leftJustify, Fitted.chars, List.length_append, List.length_replicate, List.length_take]
  omega

theorem length_blanks_chars (w : Nat) : (blanks w).fitted.chars.length = w := by
  simp [blanks, Fitted.chars]

/-- Justification adds spaces, which are printable. -/
theorem Fitted.printable_chars {f : Fitted} (h : ∀ b ∈ f.text, printable b = true) : ∀ b ∈ f.chars, printable b = true := by
  have hspaces (n : Nat) : ∀ b ∈ List.replicate n (0x20 : Byte), printable b = true := fun b hb => by
    rw [List.eq_of_mem_replicate hb]
    decide
  exact List.forall_mem_append.mpr ⟨List.forall_mem_append.mpr ⟨hspaces f.lead, h⟩, hspaces f.trail⟩

theorem printable_rightJustify {candidates : List (List Byte)} (h : ∀ t ∈ candidates, ∀ b ∈ t, printable b = true) (w : Nat) :
    ∀ b ∈ (rightJustify w candidates).chars, printable b = true := by
  refine Fitted.printable_chars ?_
  unfold rightJustify
  split
  · exact h _ (List.mem_of_find?_eq_some ‹_›)
  · intro b hb
    rw [List.eq_of_mem_replicate hb]
    decide

theorem printable_leftJustify {t : List Byte} (h : ∀ b ∈ t, printable b = true) (w : Nat) :
    ∀ b ∈ (leftJustify w t).chars, printable b = true :=
  Fitted.printable_chars fun b hb => h b (List.mem_of_mem_take hb)

theorem printable_blanks (w : Nat) : ∀ b ∈ (blanks w).fitted.chars, printable b = true := by
  refine Fitted.printable_chars fun b hb => ?_
  rw [List.eq_of_mem_replicate hb]
  decide

/-! ### The items (R61, R70 to R79) -/

/-- The ways the Formatter fits a text to a width: blanks, a text of the host's left-justified, or the first printable candidate that
fits (R61, R62). -/
inductive FittedTo (host : List (List Byte)) (w : Nat) : Fitted → Prop where
  | blank : FittedTo host w (blanks w).fitted
  | left {t : List Byte} (h : t ∈ host) : FittedTo host w (leftJustify w t)
  | right {candidates : List (List Byte)} (h : ∀ t ∈ candidates, ∀ b ∈ t, printable b = true) :
      FittedTo host w (rightJustify w candidates)

theorem FittedTo.length {host : List (List Byte)} {w : Nat} {f : Fitted} (h : FittedTo host w f) : f.chars.length = w := by
  cases h with
  | blank => exact length_blanks_chars w
  | left _ => exact length_leftJustify_chars w _
  | right _ => exact length_rightJustify_chars w _

theorem FittedTo.printable {host : List (List Byte)} {w : Nat} {f : Fitted} (h : FittedTo host w f)
    (hhost : ∀ t ∈ host, ∀ b ∈ t, Machine.printable b = true) : ∀ b ∈ f.chars, Machine.printable b = true := by
  cases h with
  | blank => exact printable_blanks w
  | left ht => exact printable_leftJustify (hhost _ ht) w
  | right hc => exact printable_rightJustify hc w

theorem renderPrice_fitted (host : List (List Byte)) (format : Format) (w : Nat) (price : Option Nat) :
    FittedTo host w (renderPrice format w price).fitted := by
  cases price with
  | none => exact .blank
  | some v => exact .right (printable_priceCandidates format v)

theorem renderNet_fitted (host : List (List Byte)) (q : Quote) (w : Nat) : FittedTo host w (renderNet q w).fitted := by
  unfold renderNet
  split
  · exact .right (printable_netCandidates _ _ _ _)
  · exact .blank

theorem renderPct_fitted (host : List (List Byte)) (q : Quote) (w : Nat) : FittedTo host w (renderPct q w).fitted := by
  unfold renderPct
  split
  · split
    · exact .blank
    · exact .right (printable_percentCandidates (printable_signBytes _ _) _)
  · exact .blank

theorem render_of_empty {item : Item} (hitem : item ≠ .text) {q : Quote} (h : q.state = .empty) (text : List Byte) (w : Nat) :
    render item q text w = blanks w := by
  cases item with
  | text => exact absurd rfl hitem
  | last | net | pct | bid | ask | high | low | vol | sym => exact if_pos h

theorem render_fitted (item : Item) (q : Quote) (text : List Byte) (w : Nat) :
    FittedTo [q.symbol, text] w (render item q text w).fitted := by
  by_cases h : q.state = .empty
  · by_cases hitem : item = .text
    · subst hitem
      exact .left (by simp)
    · rw [render_of_empty hitem h]
      exact .blank
  · cases item with
    | text => exact .left (by simp)
    | sym => rw [render, if_neg h]; exact .left (by simp)
    | last | bid | ask | high | low => rw [render, if_neg h]; exact renderPrice_fitted _ _ _ _
    | net => rw [render, if_neg h]; exact renderNet_fitted _ _ _
    | pct => rw [render, if_neg h]; exact renderPct_fitted _ _ _
    | vol => rw [render, if_neg h]; exact .right (printable_volumeCandidates _)

/-- Each of the five price items is rendered from the record's field of its name (R70). -/
theorem render_price {item : Item} {price : Option Nat} {q : Quote} (hq : q.state ≠ .empty)
    (h : (item, price) ∈ [(.last, q.last), (.bid, q.bid), (.ask, q.ask), (.high, q.high), (.low, q.low)])
    (text : List Byte) (w : Nat) : render item q text w = renderPrice q.format w price := by
  simp only [List.mem_cons, Prod.mk.injEq, List.not_mem_nil, or_false] at h
  rcases h with ⟨rfl, rfl⟩ | ⟨rfl, rfl⟩ | ⟨rfl, rfl⟩ | ⟨rfl, rfl⟩ | ⟨rfl, rfl⟩ <;> exact if_neg hq

theorem render_net {q : Quote} (hq : q.state ≠ .empty) (text : List Byte) (w : Nat) :
    render .net q text w = renderNet q w := if_neg hq

theorem render_pct {q : Quote} (hq : q.state ≠ .empty) (text : List Byte) (w : Nat) :
    render .pct q text w = renderPct q w := if_neg hq

/-- Without a last price or a reference there is no net change, and NET is blank (R71). -/
theorem renderNet_of_absent {q : Quote} (h : q.last = none ∨ q.reference = none) (w : Nat) : renderNet q w = blanks w := by
  unfold renderNet
  split
  · rename_i hlast href
    simp [hlast, href] at h
  · rfl

/-- Without a last price or a reference there is no percent, and PCT is blank (R73). -/
theorem renderPct_of_absent {q : Quote} (h : q.last = none ∨ q.reference = none) (w : Nat) : renderPct q w = blanks w := by
  unfold renderPct
  split
  · rename_i hlast href
    simp [hlast, href] at h
  · rfl

/-- A percent of a zero reference has no value (R73). -/
theorem renderPct_of_zero {q : Quote} (h : q.reference = some 0) (w : Nat) : renderPct q w = blanks w := by
  unfold renderPct
  rw [h]
  split
  · rename_i href
    cases href
    exact if_pos rfl
  · rfl

theorem renderNet_of_present {q : Quote} {last reference : Nat} (hlast : q.last = some last) (href : q.reference = some reference)
    (w : Nat) : renderNet q w =
      ⟨rightJustify w (netCandidates q.format last reference w), changeOutcome last reference⟩ := by
  rw [renderNet, hlast, href]

/-- The percent of no change is 0 (R73). -/
theorem percentMagnitude_self (reference : Nat) : percentMagnitude reference reference = 0 := by
  rcases Nat.eq_zero_or_pos reference with rfl | hpos
  · rfl
  · have hzero : changeMagnitude reference reference = 0 := by simp [changeMagnitude]
    rw [percentMagnitude, hzero]
    exact Nat.div_eq_of_lt (by omega)

/-- The sign of a percent is that of the net change, and a percent that is 0 has none (R74). -/
theorem percentCandidates_signBytes {last reference m : Nat} (hm : m = percentMagnitude last reference) :
    percentCandidates (signBytes last reference) m =
      percentCandidates (if m = 0 then [] else if reference < last then [0x2B] else [0x2D]) m := by
  by_cases hzero : m = 0
  · rw [hzero]
    rfl
  · have hne : last ≠ reference := by
      rintro rfl
      exact hzero (hm.trans (percentMagnitude_self last))
    rw [if_neg hzero, signBytes_of_ne hne, apply_ite (fun b : Byte => [b])]

theorem renderPct_of_present {q : Quote} {last reference : Nat} (hlast : q.last = some last) (href : q.reference = some reference)
    (hpos : 0 < reference) (w : Nat) {m : Nat} (hm : m = percentMagnitude last reference) : renderPct q w =
      ⟨rightJustify w (percentCandidates (if m = 0 then [] else if reference < last then [0x2B] else [0x2D]) m),
        changeOutcome last reference⟩ := by
  rw [renderPct, hlast, href]
  dsimp only
  rw [if_neg hpos.ne', ← hm, percentCandidates_signBytes hm]

end Sys2Proof.Machine

open Sys2Proof Sys2Proof.Machine

/-- Settles O35: each item is one way of fitting printable candidates to the width, and each list of candidates and each rounding is
given by its own equation. -/
theorem formatterFitsAndRounds : Obligations.FormatterFitsAndRounds := by
  refine ⟨⟨fun item q text w => (render_fitted item q text w).length, fun item q text w hsymbol htext => ?_, fun _ => rfl,
      fun w long rest t hlong ht => rightJustify_of_fits rest hlong ht, fun w long hlong => rightJustify_of_long hlong⟩,
    ⟨roundOff_bounds, changeMagnitude_eq, fun last _ hpos => percentMagnitude_bounds last hpos, percentCandidates_le⟩,
    ⟨priceCandidates_dec, fun f hf v => priceCandidates_fractional hf v, netCandidates_eq,
      fun sign m p hp => percentCandidates_eq sign hp, volumeCandidates_eq⟩,
    fun q text w blank hblank => ?_⟩
  · exact (render_fitted item q text w).printable (by simpa using ⟨hsymbol, htext⟩)
  · subst hblank
    refine ⟨rfl, fun item hitem hempty => render_of_empty hitem hempty text w, fun hq => ⟨if_neg hq, if_neg hq, fun item price h => ?_,
      fun habsent => ?_, fun hzero => ?_, fun last reference outcome hlast href houtcome => ?_⟩⟩
    · rw [render_price hq h]
      exact ⟨fun hnone => hnone ▸ rfl, fun v hsome => hsome ▸ rfl⟩
    · rw [render_net hq, render_pct hq]
      exact ⟨renderNet_of_absent habsent w, renderPct_of_absent habsent w⟩
    · rw [render_pct hq]
      exact renderPct_of_zero hzero w
    · subst houtcome
      rw [render_net hq, render_pct hq]
      exact ⟨renderNet_of_present hlast href w, fun hpos m hm => renderPct_of_present hlast href hpos w hm⟩
end

section
/-! SUPPORT. The step of the Heat Scan: its visit of a record, and the scan's advance (R103, R105, R106, R109). -/

namespace Sys2Proof.Machine

open Sys2Proof

/-- A loss of one unit of heat leaves the heat band but from 12, 6 and 1 (R103, R106). -/
theorem heatBand_pred_iff {heat : Nat} (h : heat ≠ 0) :
    heatBand (heat - 1) = heatBand heat ↔ ¬(heat = 12 ∨ heat = 6 ∨ heat = 1) := by
  unfold heatBand
  split_ifs <;> simp <;> omega

@[simp] theorem State.setRecord_mayTake (slot : Slot) (q : Quote) (s : State) : (s.setRecord slot q).mayTake = s.mayTake := rfl

/-- The visit of a record that is EMPTY or has no heat. -/
theorem State.visit_of_cold {slot : Slot} {s : State}
    (h : (s.records.get slot).state = .empty ∨ (s.records.get slot).heat = 0) : s.visit slot = s := if_pos h

/-- The visit of a record with heat. -/
theorem State.visit_of_warm {slot : Slot} {s : State}
    (h : ¬((s.records.get slot).state = .empty ∨ (s.records.get slot).heat = 0)) :
    s.visit slot =
      if (s.records.get slot).heat = 12 ∨ (s.records.get slot).heat = 6 ∨ (s.records.get slot).heat = 1 then
        (s.setRecord slot { s.records.get slot with heat := (s.records.get slot).heat - 1 }).toldOf slot [.last]
      else s.setRecord slot { s.records.get slot with heat := (s.records.get slot).heat - 1 } := by
  have hband := heatBand_pred_iff (not_or.mp h).2
  have hvisit : s.visit slot =
      if heatBand ((s.records.get slot).heat - 1) = heatBand (s.records.get slot).heat then
        s.setRecord slot { s.records.get slot with heat := (s.records.get slot).heat - 1 }
      else (s.setRecord slot { s.records.get slot with heat := (s.records.get slot).heat - 1 }).handOver
        (.lookups slot [.last]) := if_neg h
  rw [hvisit, State.handOver_lookups _ (by decide)]
  by_cases hc : (s.records.get slot).heat = 12 ∨ (s.records.get slot).heat = 6 ∨ (s.records.get slot).heat = 1
  · rw [if_neg (fun he => hband.mp he hc), if_pos hc]
  · rw [if_pos (hband.mpr hc), if_neg hc]

/-- A scan step that runs: the visit, and then the scan advanced (R105, R106). -/
theorem State.scanStep_of_running {s : State} (hrun : s.link.phase = .running) (hen : s.colour.scan.enabled = true) :
    s.scanStep = (s.visit s.colour.scan.position).setScan { (s.visit s.colour.scan.position).colour.scan with
      position := nextPosition s.colour.scan.position (scanLimit s.colour.scan.limitCode)
      interval := some (scanPeriod s.colour.scan.periodCode) } := if_pos ⟨hrun, hen⟩

end Sys2Proof.Machine

open Sys2Proof Sys2Proof.Machine

/-- Settles O31: the visit is cold, or warm with or without a crossing, and the scan advances after it. -/
theorem heatScanSteps : Obligations.HeatScanSteps := by
  have hexec : ∀ s : State, s.owed = none → exec .heatScanStep s = .next s.scanStep := fun s ho =>
    congrArg (fun t : State => Host.Outcome.next t.scanStep) (State.settled_of_none ho)
  refine ⟨?_, fun s hoff ho => ?_⟩
  · rintro s t u slot q crossing rfl rfl hrun hen ho hcross rfl rfl
    rw [hexec s ho, State.scanStep_of_running hrun hen]
    by_cases hcold : (s.records.get s.colour.scan.position).state = .empty ∨ (s.records.get s.colour.scan.position).heat = 0
    · have hno : crossing = false := by
        rw [← Bool.not_eq_true, hcross]
        rintro ⟨hs, hh⟩
        rcases hcold with hc | hc
        · exact hs hc
        · omega
      rw [State.visit_of_cold hcold, if_pos hcold, hno]
      exact ⟨fun _ => rfl, nofun, nofun⟩
    · rw [State.visit_of_warm hcold, if_neg hcold]
      have hiff := hcross.trans (and_iff_right (not_or.mp hcold).1)
      refine ⟨fun hno => ?_, fun hyes hm => ?_, fun hyes hm => ?_⟩
      · rw [if_neg (fun h => Bool.false_ne_true (hno.symm.trans (hiff.mpr h)))]
        rfl
      · rw [if_pos (hiff.mp hyes), State.toldOf]
        exact congrArg _ (by rw [if_neg (by simpa using hm)]; rfl)
      · rw [if_pos (hiff.mp hyes), State.toldOf]
        exact congrArg _ (by rw [if_pos (by simpa using hm)]; rfl)
  · rw [hexec s ho]
    refine congrArg _ (if_neg ?_)
    rintro ⟨hrun, hen⟩
    rcases hoff with hno | hno
    · exact hno hrun
    · exact Bool.false_ne_true (hno.symm.trans hen)
end

section
/-! SUPPORT. What the requests of the Field Map change, in closed form: MAP, UNMAP, MFLUSH and SETTEXT. -/

namespace Sys2Proof.Table

/-- The table of a table's things is that table. -/
@[simp] theorem ofFn_get {n : Nat} {α : Type} (t : Table n α) : ofFn t.get = t := ext_get fun i => get_ofFn _ i

end Sys2Proof.Table

namespace Sys2Proof.Machine

open Sys2Proof

/-! ### A new entry (R88) -/

/-- A mark request for a LIVE entry just written (R122). -/
theorem State.markEntry_written {i : EntryIx} {f : Field} (hlive : f.state = .live) (s : State) :
    ({ s with fields := s.fields.set i f } : State).markEntry i = { s with
      fields := s.fields.set i { f with dirty := f.dirty || appears s.bands f }
      painter := { s.painter with
        dirty := s.painter.dirty ++ (if f.dirty = false ∧ appears s.bands f = true then [i] else []) } } := by
  have hm : ({ s with fields := s.fields.set i f } : State).markable i = (!f.dirty && appears s.bands f) := by
    simp [State.markable, hlive]
  rw [State.markEntry_eq, hm]
  apply State.ext_swept (s := s) (b := s.bands) (c := s.bands)
  · intro j
    rw [Table.get_ofFn, Table.get_set, Table.get_set]
    by_cases hj : j = i
    · subst hj
      cases hd : f.dirty <;> cases appears s.bands f <;> simp [hd]
    · rw [if_neg hj, if_neg hj]
      split <;> simp [hj]
  · cases f.dirty <;> cases appears s.bands f <;> rfl
  · exact fun _ => rfl

/-- A new entry holds the curtain of a band: it appears there, and the band is CURTAINED (R88). -/
def holdsCurtain (f : Field) (b : Band) : Bool := appearsIn f b && decide (b.curtain = .curtained)

/-- A new entry takes its mark for band k, and is counted there, where it holds that band's curtain. -/
theorem State.holdCurtain_eq {i : EntryIx} {s : State} {k : BandIx} (hclear : (s.fields.get i).unpainted.get k = false) :
    s.holdCurtain i k = { s with
      fields := s.fields.modify i (fun f => { f with unpainted := f.unpainted.set k (holdsCurtain f (s.bands.get k)) })
      bands := s.bands.modify k (fun b => if holdsCurtain (s.fields.get i) b = true then { b with count := b.count + 1 } else b) } := by
  have hcond : (appearsIn (s.fields.get i) (s.bands.get k) = true ∧ (s.bands.get k).curtain = .curtained)
      ↔ holdsCurtain (s.fields.get i) (s.bands.get k) = true := by simp [holdsCurtain]
  unfold State.holdCurtain State.setUnpainted
  simp only [hcond, hclear]
  cases hh : holdsCurtain (s.fields.get i) (s.bands.get k)
  · have hs : s = { s with fields := s.fields, bands := s.bands } := rfl
    conv_lhs => rw [if_neg Bool.false_ne_true, hs]
    apply State.ext_fields_bands
    · intro j
      rw [Table.get_modify]
      split
      · subst j
        have hset : (s.fields.get i).unpainted.set k false = (s.fields.get i).unpainted := by
          rw [← hclear, Table.set_get]
        rw [hh, hset]
      · rfl
    · intro m
      rw [Table.get_modify]
      split
      · subst m
        rw [if_neg (by rw [hh]; exact Bool.false_ne_true)]
      · rfl
  · rw [if_pos rfl, if_neg Bool.false_ne_true]
    apply State.ext_fields_bands
    · intro j
      simp only [Table.get_modify, hh]
    · intro m
      simp only [Table.get_modify, hh, if_true]

/-- A new entry takes its marks for distinct bands. -/
theorem State.foldl_holdCurtain (i : EntryIx) (l : List BandIx) (s : State) (h : l.Nodup)
    (hclear : ∀ k ∈ l, (s.fields.get i).unpainted.get k = false) :
    l.foldl (State.holdCurtain i) s = { s with
      fields := s.fields.modify i (fun f => { f with
        unpainted := Table.ofFn (fun k => if k ∈ l then holdsCurtain f (s.bands.get k) else f.unpainted.get k) })
      bands := Table.ofFn (fun k =>
        if k ∈ l ∧ holdsCurtain (s.fields.get i) (s.bands.get k) = true then
          { s.bands.get k with count := (s.bands.get k).count + 1 }
        else s.bands.get k) } := by
  induction l generalizing s with
  | nil =>
    have hs : s = { s with fields := s.fields, bands := s.bands } := rfl
    conv_lhs => rw [List.foldl_nil, hs]
    apply State.ext_fields_bands
    · intro j
      rw [Table.get_modify]
      split
      · subst j; simp
      · rfl
    · intro k; simp
  | cons k l ih =>
    obtain ⟨hk, hl⟩ := List.nodup_cons.mp h
    have hne : ∀ m ∈ l, m ≠ k := fun m hm e => hk (e ▸ hm)
    rw [List.foldl_cons, State.holdCurtain_eq (hclear k List.mem_cons_self), ih _ hl]
    · apply State.ext_fields_bands
      · intro j
        simp only [Table.get_modify]
        split
        · simp only [↓reduceIte]
          congr 1
          apply Table.ext_get
          intro m
          simp only [Table.get_ofFn, Table.get_set, List.mem_cons]
          by_cases hm : m = k
          · subst hm; simp [hk]
          · simp only [false_or, hm]
            rfl
        · rfl
      · intro m
        simp only [Table.get_ofFn, Table.get_modify, List.mem_cons]
        by_cases hm : m = k
        · subst hm; simp [hk]
        · simp only [hm, false_or, ↓reduceIte]
          rfl
    · intro m hm
      simp only [Table.get_modify_self, Table.get_set_ne _ _ (hne m hm)]
      exact hclear m (List.mem_cons_of_mem _ hm)

theorem mem_allBands (k : BandIx) : k ∈ allBands := by
  revert k
  decide

/-- A clean new entry is written with the marks of the curtains it holds, counted there, and queued where it appears (R88). -/
theorem State.placeEntry_eq {i : EntryIx} {f : Field} (s : State) (hlive : f.state = .live) (hclean : f.dirty = false)
    (hclear : f.unpainted = Table.replicate 4 false) : s.placeEntry i f = { s with
      fields := s.fields.set i { f with
        dirty := appears s.bands f
        unpainted := Table.ofFn (fun k => holdsCurtain f (s.bands.get k)) }
      bands := s.bands.map (fun b => if holdsCurtain f b = true then { b with count := b.count + 1 } else b)
      painter := { s.painter with dirty := s.painter.dirty ++ (if appears s.bands f then [i] else []) } } := by
  obtain ⟨g, hg⟩ : ∃ g : Field, g = { f with unpainted := Table.ofFn (fun k => holdsCurtain f (s.bands.get k)) } := ⟨_, rfl⟩
  obtain ⟨bands, hb⟩ : ∃ bands, bands =
      s.bands.map (fun b => if holdsCurtain f b = true then { b with count := b.count + 1 } else b) := ⟨_, rfl⟩
  have hheld : allBands.foldl (State.holdCurtain i) { s with fields := s.fields.set i f } =
      { ({ s with bands := bands } : State) with fields := s.fields.set i g } := by
    rw [State.foldl_holdCurtain _ _ _ (by decide) (fun k _ => by simp [hclear])]
    apply State.ext_fields_bands
    · intro j
      simp only [Table.get_modify, Table.get_set, mem_allBands, if_true, hg]
      split <;> rfl
    · intro k
      simp only [hb, mem_allBands, Table.get_ofFn, Table.get_map, Table.get_set_self, true_and]
  have happears : appears bands g = appears s.bands f := by
    apply appears_congr
    · rw [hg]
    · rw [hg]
    · intro k
      rw [hb, Table.get_map]
      split <;> rfl
  have hdirty : g.dirty = false := by rw [hg]; exact hclean
  rw [State.placeEntry, hheld, State.markEntry_written (by rw [hg]; exact hlive)]
  simp only [happears, hdirty, Bool.false_or, true_and]
  rw [hg, hb]

/-! ### MAP (R86, R87) -/

theorem duplicates_iff {f e : Field} : duplicates f e = true ↔
    e.state = .live ∧ f.item ≠ .text ∧ canMeet f.placement e.placement = true ∧ e.slot = f.slot ∧ e.item = f.item := by
  simp [duplicates, and_assoc, and_left_comm]

theorem overlaps_iff {f e : Field} : overlaps f e = true ↔
    e.state = .live ∧ canMeet f.placement e.placement = true ∧ sharesCell f e = true := by
  simp [overlaps, and_assoc]

/-- A MAP that shows what a LIVE entry shows is refused (R87). -/
theorem mapWork_of_duplicate {f : Field} {s : State} (h : ∃ i, duplicates f (s.fields.get i) = true) :
    mapWork f s = s.reject Kind.map .duplicate := if_pos (Table.any_eq_true.mpr h)

/-- A MAP that shares a cell with a LIVE entry is refused (R87). -/
theorem mapWork_of_overlap {f : Field} {s : State} (hd : ∀ i, duplicates f (s.fields.get i) = false)
    (h : ∃ i, overlaps f (s.fields.get i) = true) : mapWork f s = s.reject Kind.map .overlap := by
  rw [mapWork, Table.any_eq_false.mpr hd, Table.any_eq_true.mpr h]
  rfl

/-- A MAP of an entry that nothing stands in the way of takes the lowest FREE entry, or is refused (R87, R88). -/
theorem mapWork_of_clear {f : Field} {s : State} (hd : ∀ i, duplicates f (s.fields.get i) = false)
    (ho : ∀ i, overlaps f (s.fields.get i) = false) :
    mapWork f s = match s.fields.lowest (fun e => decide (e.state = .free)) with
      | none => s.reject Kind.map .full
      | some i => (s.placeEntry i f).updateWork.ack Kind.map i.val := by
  rw [mapWork, Table.any_eq_false.mpr hd, Table.any_eq_false.mpr ho]
  rfl

/-! ### UNMAP (R89) -/

/-- A LIVE entry that appears in a band becomes ERASING. -/
theorem State.eraseEntry_eq (i : EntryIx) (s : State) : s.eraseEntry i = { s.marksDropped i with
    fields := s.fields.set i { s.fields.get i with
      state := .erasing, dirty := true, unpainted := Table.replicate 4 false }
    painter := { s.painter with
      dirty := if (s.fields.get i).dirty then s.painter.dirty else s.painter.dirty ++ [i] } } := by
  have hfields : (s.marksDropped i).fields.modify i (fun f => { f with state := .erasing, dirty := true }) =
      s.fields.set i { s.fields.get i with state := .erasing, dirty := true, unpainted := Table.replicate 4 false } := by
    rw [State.marksDropped, Table.modify, Table.get_modify_self, Table.modify, Table.set_set]
  have hdirty : ((s.marksDropped i).fields.get i).dirty = (s.fields.get i).dirty := by
    rw [State.marksDropped, Table.get_modify_self]
  rw [State.eraseEntry, State.clearMarksOf_eq]
  simp only [hfields, hdirty]
  rfl

/-! ### MFLUSH (R91) -/

/-- A refresh touches no frame of the Inbound Queue. -/
theorem State.foldl_refreshed_takeHead (l : List BandIx) (s : State) :
    l.foldl (fun t k => t.refreshed k) s.takeHead = (l.foldl (fun t k => t.refreshed k) s).takeHead := by
  induction l generalizing s with
  | nil => rfl
  | cons k l ih => exact ih (s.refreshed k)

theorem State.foldl_refreshBand (l : List BandIx) (s : State) :
    l.foldl (fun t k => t.refreshBand k) s = l.foldl (fun t k => t.refreshed k) s := by
  simp only [State.refreshBand_eq]

/-- The entries with a property are freed, all at once. -/
theorem State.freeEntries_eq (p : Field → Bool) (s : State) : (s.fields.indices p).foldl State.freeEntry s = { s with
      fields := s.fields.map (fun f => if p f then Field.free else f)
      painter := { s.painter with dirty := s.painter.dirty.filter (fun i => !p (s.fields.get i)) }
      bands := Table.ofFn (fun k => { s.bands.get k with
        count := (s.bands.get k).count - s.fields.count (fun f => p f && f.unpainted.get k) }) } := by
  rw [State.foldl_freeEntry _ _ (Table.indices_nodup _ _)]
  apply State.ext_swept
  · intro i
    simp only [Table.get_ofFn, Table.get_map, Table.mem_indices]
  · simp
  · intro k
    have hcount : ((s.fields.indices p).filter (fun i => (s.fields.get i).unpainted.get k)).length =
        s.fields.count (fun f => p f && f.unpainted.get k) := by
      simp only [Table.count_eq, Table.indices_eq_filter, List.filter_filter, Bool.and_comm]
    simp only [Table.get_ofFn, hcount]

theorem length_indices {n : Nat} {α : Type} (t : Table n α) (p : α → Bool) : (t.indices p).length = t.count p := by
  rw [Table.count_eq, Table.indices_eq_filter]

/-- An MFLUSH frees its group, refreshes the bands concerned, and is answered (R91). -/
theorem mflushWork_takeHead (g : FieldGroup) (s : State) : mflushWork g s.takeHead =
    (((s.bands.indices g.refreshes).foldl (fun t k => t.refreshed k) ((s.fields.indices g.selects).foldl State.freeEntry s)
      ).updateWork.answered (.ack 0x22 (s.fields.count g.selects))) := by
  have hfreed : (s.fields.indices g.selects).foldl State.freeEntry s.takeHead =
      ((s.fields.indices g.selects).foldl State.freeEntry s).takeHead := by
    rw [State.freeEntries_eq]
    exact State.freeEntries_eq g.selects s.takeHead
  simp only [mflushWork, State.takeHead_fields, State.takeHead_bands, hfreed, State.foldl_refreshBand,
    State.foldl_refreshed_takeHead, length_indices]
  rfl

/-- The groups of an MFLUSH, each with its selector (R91). -/
theorem parse_mflush (selector : Nat) (g : FieldGroup)
    (h : (∃ b : BoardIx, selector = b.val ∧ g = .board b) ∨ (selector = 0x10 ∧ g = .common) ∨ (selector = 0xFF ∧ g = .all)) :
    parseMflush (beBytes 1 selector) = .ok g := by
  rcases h with ⟨b, rfl, rfl⟩ | ⟨rfl, rfl⟩ | ⟨rfl, rfl⟩
  · simp [parseMflush]
  · rfl
  · rfl

/-! ### SETTEXT (R97) -/

/-- SETTEXT of a LIVE TEXT entry. -/
theorem settextWork_of_text {i : EntryIx} {text : List Byte} {s : State} (hlive : (s.fields.get i).state = .live)
    (htext : (s.fields.get i).item = .text) : settextWork (i, text) s =
      ({ s with
        fields := s.fields.set i { s.fields.get i with
          text := text, dirty := (s.fields.get i).dirty || appears s.bands (s.fields.get i) }
        painter := { s.painter with dirty := s.painter.dirty ++
          (if (s.fields.get i).dirty = false ∧ appears s.bands (s.fields.get i) = true then [i] else []) } } : State).ack
        Kind.settext i.val := by
  rw [settextWork, if_pos ⟨hlive, htext⟩]
  refine congrArg (State.ack Kind.settext i.val) ?_
  exact State.markEntry_written (f := { s.fields.get i with text := text }) hlive s

end Sys2Proof.Machine

open Sys2Proof Sys2Proof.Machine

/-- Settles O39: the text is replaced, and the entry marked. -/
theorem settextReplacesText : Obligations.SettextReplacesText := by
  rintro s i f text rfl hlen h
  have hx := request_ok (work := settextWork) h (parse_settext i text hlen)
  refine ⟨fun hno => hx.trans (congrArg _ ?_), fun hlive htext => hx.trans (congrArg _ ?_)⟩
  · exact if_neg hno
  · exact settextWork_of_text (s := s.takeHead) hlive htext

/-- Settles O37, by the entry's state and whether it appears in a band. -/
theorem unmapRemovesField : Obligations.UnmapRemovesField := by
  rintro s i f rfl h
  have hx := request_ok (work := unmapWork) h (parse_index i)
  refine ⟨fun hs => hx.trans (congrArg _ ?_), fun hs ha => hx.trans (congrArg _ ?_), fun hs ha => hx.trans (congrArg _ ?_)⟩
  · rw [unmapWork, State.takeHead_fields, if_neg hs]
    rfl
  · rw [unmapWork, State.takeHead_fields, State.takeHead_bands, if_pos hs, if_pos ha, State.eraseEntry_eq]
    rfl
  · rw [unmapWork, State.takeHead_fields, State.takeHead_bands, if_pos hs, ha, if_neg Bool.false_ne_true, State.freeEntry_eq]
    rfl

/-- Settles O36: the three checks in their order, and the closed form of a new entry. -/
theorem mapPlacesField : Obligations.MapPlacesField := by
  intro s f slotField text hf h
  have hx := request_ok (work := mapWork) h (parse_map f slotField text hf)
  refine ⟨fun ⟨i, hi⟩ => hx.trans (congrArg _ ?_), fun hd => ?_⟩
  · exact mapWork_of_duplicate ⟨i, duplicates_iff.mpr hi⟩
  have hdup : ∀ i, duplicates f (s.fields.get i) = false := by
    intro i
    rw [← Bool.not_eq_true, duplicates_iff]
    exact fun ⟨hl, ht, hm, hsi⟩ => hd i hl ht hm hsi
  refine ⟨fun ⟨i, hi⟩ => hx.trans (congrArg _ ?_), fun ho => ?_⟩
  · exact mapWork_of_overlap hdup ⟨i, overlaps_iff.mpr hi⟩
  have hover : ∀ i, overlaps f (s.fields.get i) = false := by
    intro i
    rw [← Bool.not_eq_true, overlaps_iff]
    exact fun ⟨hl, hm, hc⟩ => Bool.false_ne_true ((ho i hl hm).symm.trans hc)
  have hclear := mapWork_of_clear (s := s.takeHead) hdup hover
  rw [State.takeHead_fields] at hclear
  refine ⟨fun hfull => hx.trans (congrArg _ ?_), fun i hi hlow => hx.trans (congrArg _ ?_)⟩
  · have hnone : s.fields.lowest (fun e => decide (e.state = .free)) = none :=
      Table.lowest_eq_none.mpr fun i => decide_eq_false (hfull i)
    rw [hclear, hnone]
    rfl
  · have hsome : s.fields.lowest (fun e => decide (e.state = .free)) = some i :=
      Table.lowest_eq_some.mpr ⟨decide_eq_true hi, fun j hj => decide_eq_false (hlow j hj)⟩
    rw [hclear, hsome]
    dsimp only
    rw [State.placeEntry_eq s.takeHead hf.live hf.clean.1 hf.clean.2]
    simp only [holdsCurtain, Bool.and_eq_true, decide_eq_true_eq]
    rfl

/-- Settles O38: the group is freed, and the bands concerned are refreshed. -/
theorem flushFreesGroup : Obligations.FlushFreesGroup := by
  rintro s u selector group shown h hsel rfl
  obtain ⟨g, hp, hgroup, hshown⟩ : ∃ g : FieldGroup, parseMflush (beBytes 1 selector) = .ok g
      ∧ g.selects = group ∧ g.refreshes = shown := by
    rcases hsel with ⟨b, hb, rfl, rfl⟩ | ⟨hb, rfl, rfl⟩ | ⟨hb, rfl, rfl⟩
    · refine ⟨.board b, parse_mflush _ _ (.inl ⟨b, hb, rfl⟩), ?_, rfl⟩
      funext f
      simp [FieldGroup.selects]
    · refine ⟨.common, parse_mflush _ _ (.inr (.inl ⟨hb, rfl⟩)), ?_, ?_⟩
      · funext f
        simp [FieldGroup.selects]
      · funext b
        simp only [FieldGroup.refreshes]
        cases b.shows <;> rfl
    · refine ⟨.all, parse_mflush _ _ (.inr (.inr ⟨hb, rfl⟩)), rfl, ?_⟩
      funext b
      simp only [FieldGroup.refreshes]
      cases b.shows <;> rfl
  refine (request_ok h hp).trans (congrArg _ ?_)
  rw [mflushWork_takeHead, State.freeEntries_eq, hgroup, hshown, Table.indices_eq_filter]
  rfl
end

section
/-! SUPPORT. The elementary changes of the field map entries, the band records and the Dirty List, and the laws of the curtains, the
bands and the layout, kept by each of them. -/

namespace Sys2Proof.Machine

open Sys2Proof

/-! ### The three parts -/

/-- The parts of the state that say what stands on the screen: the field map entries, the band records, and the Dirty List. -/
structure Screen where
  fields : Table 256 Field
  bands : Table 4 Band
  dirty : List EntryIx

/-- These parts of a state. -/
def State.screen (s : State) : Screen := ⟨s.fields, s.bands, s.painter.dirty⟩

@[simp] theorem State.screen_fields (s : State) : s.screen.fields = s.fields := rfl
@[simp] theorem State.screen_bands (s : State) : s.screen.bands = s.bands := rfl
@[simp] theorem State.screen_dirty (s : State) : s.screen.dirty = s.painter.dirty := rfl

/-- The state with these parts that is otherwise as right after reset: what the laws of a screen are stated of. -/
def Screen.state (m : Screen) : State :=
  { State.reset with fields := m.fields, bands := m.bands, painter := { State.reset.painter with dirty := m.dirty } }

@[simp] theorem Screen.state_fields (m : Screen) : m.state.fields = m.fields := rfl
@[simp] theorem Screen.state_bands (m : Screen) : m.state.bands = m.bands := rfl

/-- The law of the curtains depends on these parts alone. -/
theorem State.curtainsLawful_iff {s : State} : s.CurtainsLawful ↔ s.screen.state.CurtainsLawful :=
  ⟨fun h => ⟨h.marks, h.counts, h.curtained, h.others, h.unused⟩, fun h => ⟨h.marks, h.counts, h.curtained, h.others, h.unused⟩⟩

/-- So does the law of the bands. -/
theorem State.bandsLawful_iff {s : State} : s.BandsLawful ↔ s.screen.state.BandsLawful :=
  ⟨fun h => ⟨h.onScreen, h.apart, h.boards, h.oneTape, h.tapeSize⟩, fun h => ⟨h.onScreen, h.apart, h.boards, h.oneTape, h.tapeSize⟩⟩

/-- So does the law of the layout. -/
theorem State.layoutLawful_iff {s : State} : s.LayoutLawful ↔ s.screen.state.LayoutLawful :=
  ⟨fun h => ⟨h.ranges, h.cells, h.items⟩, fun h => ⟨h.ranges, h.cells, h.items⟩⟩

/-! ### The elementary changes -/

/-- The counts of the bands with a property are lowered by one (R93). -/
def lowerCounts (p : BandIx → Bool) (bands : Table 4 Band) : Table 4 Band :=
  Table.ofFn (fun k => if p k then { bands.get k with count := (bands.get k).count - 1 } else bands.get k)

/-- No entry holds a mark for band k (R93). -/
def Screen.Unmarked (m : Screen) (k : BandIx) : Prop := ∀ i, (m.fields.get i).unpainted.get k = false

/-- Band k shows a board. -/
def Band.ShowsBoard (b : Band) : Prop := ∃ board, b.shows = .board board

/-- One change of the three parts, with what the part has checked or found before it makes it. -/
inductive Screen.Change (m : Screen) : Screen → Prop where
  /-- Every block takes its reset values (R179). -/
  | reset : Change m State.reset.screen
  /-- A mark request queues a LIVE entry that appears in a band (R122). -/
  | marked (i : EntryIx) (hlive : (m.fields.get i).state = .live) (hclean : (m.fields.get i).dirty = false)
      (happears : appears m.bands (m.fields.get i) = true) :
      Change m { m with
        fields := m.fields.set i { m.fields.get i with dirty := true }
        dirty := m.dirty ++ [i] }
  /-- The sweep of band k queues a LIVE entry that appears there and sets its mark (R92). -/
  | swept (k : BandIx) (i : EntryIx) (hin : liveIn (m.bands.get k) (m.fields.get i) = true)
      (hpending : (m.bands.get k).clearPending = true) :
      Change m
        { fields := m.fields.modify i (fun f => { f with unpainted := f.unpainted.set k true, dirty := true })
          dirty := m.dirty ++ (if (m.fields.get i).dirty then [] else [i])
          bands := m.bands.modify k (fun b =>
            { b with count := b.count + (if (m.fields.get i).unpainted.get k then 0 else 1) }) }
  /-- MAP takes a FREE entry for a clean LIVE one that no LIVE entry stands in the way of (R87, R88). -/
  | mapped (i : EntryIx) (f : Field) (hfree : (m.fields.get i).state = .free) (hlive : f.state = .live) (hrange : f.InRange)
      (hduplicates : ∀ j, duplicates f (m.fields.get j) = false) (hoverlaps : ∀ j, overlaps f (m.fields.get j) = false) :
      Change m
        { fields := m.fields.set i { f with
            dirty := appears m.bands f
            unpainted := Table.ofFn (fun k => holdsCurtain f (m.bands.get k)) }
          bands := m.bands.map (fun b => if holdsCurtain f b = true then { b with count := b.count + 1 } else b)
          dirty := m.dirty ++ (if appears m.bands f then [i] else []) }
  /-- SETTEXT gives a LIVE TEXT entry another text (R97). -/
  | retexted (i : EntryIx) (text : List Byte) (hitem : (m.fields.get i).item = .text) (hlength : text.length ≤ 16)
      (htext : ∀ b ∈ text, printable b = true) :
      Change m { m with fields := m.fields.set i { m.fields.get i with text := text } }
  /-- UNMAP makes a LIVE entry ERASING (R89). -/
  | erased (i : EntryIx) (hlive : (m.fields.get i).state = .live) :
      Change m
        { fields := m.fields.set i { m.fields.get i with
            state := .erasing, dirty := true, unpainted := Table.replicate 4 false }
          bands := lowerCounts (m.fields.get i).unpainted.get m.bands
          dirty := if (m.fields.get i).dirty then m.dirty else m.dirty ++ [i] }
  /-- UNMAP and MFLUSH free an entry (R89, R91). -/
  | freed (i : EntryIx) :
      Change m
        { fields := m.fields.set i Field.free
          bands := lowerCounts (m.fields.get i).unpainted.get m.bands
          dirty := m.dirty.filter (fun j => decide (j ≠ i)) }
  /-- The Painter takes an entry that is not ERASING, and renders it into the bands it appears in (R129, R130). -/
  | rendered (i : EntryIx) (rest : List EntryIx) (hhead : m.dirty = i :: rest) (hstate : (m.fields.get i).state ≠ .erasing) :
      Change m
        { fields := m.fields.set i { m.fields.get i with
            dirty := false
            unpainted := Table.ofFn (fun k =>
              (m.fields.get i).unpainted.get k && !appearsIn (m.fields.get i) (m.bands.get k)) }
          bands := lowerCounts (fun k => appearsIn (m.fields.get i) (m.bands.get k) && (m.fields.get i).unpainted.get k) m.bands
          dirty := rest }
  /-- The Painter takes an ERASING entry, and frees it (R129, R131). -/
  | released (i : EntryIx) (rest : List EntryIx) (hhead : m.dirty = i :: rest) (hstate : (m.fields.get i).state = .erasing) :
      Change m { m with fields := m.fields.set i Field.free, dirty := rest }
  /-- Every entry's mark for band k is cleared, and its count is 0 (R93, R143). -/
  | unmarked (k : BandIx) :
      Change m { m with
        fields := m.fields.map (fun f => { f with unpainted := f.unpainted.set k false })
        bands := m.bands.modify k (fun b => { b with count := 0 }) }
  /-- A used band comes to show NONE, and owes a clear (R143, R144). -/
  | hidden (k : BandIx) (hused : (m.bands.get k).height = 0 → (m.bands.get k).shows ≠ .nothing)
      (hclear : (m.bands.get k).ShowsBoard → m.Unmarked k) :
      Change m { m with bands := m.bands.modify k (fun b =>
        { b with shows := .nothing, count := 0, clearPending := true, curtain := .opened }) }
  /-- A used band comes to show a board that no other band shows: it is CURTAINED and owes a clear (R144, R145). -/
  | boarded (k : BandIx) (board : BoardIx) (hused : (m.bands.get k).height ≠ 0)
      (hothers : ∀ j, j ≠ k → (m.bands.get j).shows ≠ .board board) (hclear : (m.bands.get k).ShowsBoard → m.Unmarked k) :
      Change m { m with bands := m.bands.modify k (fun b =>
        { b with shows := .board board, clearPending := true, curtain := .curtained }) }
  /-- A used band that is not of double width comes to show TAPE, which no other band shows (R142, R144). -/
  | taped (k : BandIx) (hused : (m.bands.get k).height ≠ 0) (hsize : doubleWidth (m.bands.get k).size = false)
      (hothers : ∀ j, j ≠ k → (m.bands.get j).shows ≠ .tape) (hclear : (m.bands.get k).ShowsBoard → m.Unmarked k) :
      Change m { m with bands := m.bands.modify k (fun b => { b with shows := .tape, count := 0, curtain := .opened }) }
  /-- A BAND of height 0 (R141). -/
  | retired (k : BandIx) (top : Nat) (size : Fin 4) (background : AttrIx) (htop : top ≤ 36) (hclear : m.Unmarked k) :
      Change m { m with bands := m.bands.set k ⟨0, top, size, background, .nothing, .opened, 0, false⟩ }
  /-- A BAND of another height takes rows that no other used band holds (R140). -/
  | resized (k : BandIx) (top height : Nat) (size : Fin 4) (background : AttrIx) (hheight : 0 < height)
      (hscreen : top + height ≤ 36) (hrows : rowsTaken m.bands k top height = false)
      (htape : (m.bands.get k).shows = .tape → doubleWidth size = false) :
      Change m { m with bands := m.bands.modify k (fun b =>
        { b with top := top, height := height, size := size, background := background }) }
  /-- A band showing a board is to be cleared, and is CURTAINED (R145). -/
  | veiled (k : BandIx) (hboard : (m.bands.get k).ShowsBoard) :
      Change m { m with bands := m.bands.modify k (fun b => { b with clearPending := true, curtain := .curtained }) }
  /-- The Painter has cleared a band (R128). -/
  | cleared (k : BandIx) : Change m { m with bands := m.bands.modify k (fun b => { b with clearPending := false }) }
  /-- A band is opened that shows no board, or whose board is painted (R132, R141). -/
  | opened (k : BandIx) (h : ¬(m.bands.get k).ShowsBoard ∨ openable (m.bands.get k) = true) :
      Change m { m with bands := m.bands.modify k (fun b => { b with curtain := .opened }) }

/-- A chain of changes. -/
abbrev Screen.Changes : Screen → Screen → Prop := Relation.ReflTransGen Screen.Change

theorem Screen.Changes.of_eq {m n : Screen} (h : n = m) : m.Changes n := h ▸ .refl

/-- What every elementary change keeps, a chain of them keeps. -/
theorem Screen.Changes.keeps {P : Screen → Prop} (hP : ∀ m n, m.Change n → P m → P n) {m n : Screen} (h : m.Changes n)
    (hm : P m) : P n := by
  induction h with
  | refl => exact hm
  | tail _ hc ih => exact hP _ _ hc ih

/-! ### The law of the curtains (R93, R138, R145) -/

theorem appearsIn_iff {f : Field} {b : Band} : appearsIn f b = true ↔
    f.state ≠ .free ∧ ∃ board, b.shows = .board board ∧ (f.placement = .common ∨ f.placement = .board board) := by
  unfold appearsIn
  cases f.state <;> cases b.shows <;> simp

theorem appearsIn_showsBoard {f : Field} {b : Band} (h : appearsIn f b = true) : b.ShowsBoard := by
  obtain ⟨-, board, hb, -⟩ := appearsIn_iff.mp h
  exact ⟨board, hb⟩

theorem not_showsBoard_iff {b : Band} : ¬b.ShowsBoard ↔ ∀ board, b.shows ≠ .board board := not_exists

/-- A band with a mark set for it has a count above 0. -/
theorem State.CurtainsLawful.count_pos {s : State} (h : s.CurtainsLawful) {i : EntryIx} {k : BandIx}
    (hm : (s.fields.get i).unpainted.get k = true) : 0 < (s.bands.get k).count := by
  rw [h.counts, Table.count, List.countP_pos_iff]
  exact ⟨_, Table.mem_list.mpr ⟨i, rfl⟩, hm⟩

/-- Only a LIVE entry holds marks. -/
theorem State.CurtainsLawful.clear_of_not_live {s : State} (h : s.CurtainsLawful) {i : EntryIx}
    (hs : (s.fields.get i).state ≠ .live) (k : BandIx) : (s.fields.get i).unpainted.get k = false := by
  rw [← Bool.not_eq_true]
  exact fun hk => hs (h.marks i k hk).1

/-- A band that shows no board has no marks; so a band whose marks have been cleared if it shows one has none. -/
theorem Screen.unmarked_of_lawful {m : Screen} (h : m.state.CurtainsLawful) {k : BandIx}
    (hclear : (m.bands.get k).ShowsBoard → m.Unmarked k) : m.Unmarked k := by
  by_cases hb : (m.bands.get k).ShowsBoard
  · exact hclear hb
  · intro i
    rw [← Bool.not_eq_true]
    exact fun hm => hb (appearsIn_showsBoard (h.marks i k hm).2.2)

/-- A band without marks has a count of 0. -/
theorem Screen.Unmarked.count_eq {m : Screen} {k : BandIx} (hk : m.Unmarked k) (h : m.state.CurtainsLawful) :
    (m.bands.get k).count = 0 := by
  have hcount := h.counts k
  rw [Screen.state_bands, Screen.state_fields] at hcount
  rw [hcount, Table.count_eq]
  simp [hk _]

/-- One entry is written, with the counts that follow from its marks: its marks are lawful, and a new one is for a CURTAINED band. -/
theorem Screen.setField_curtainsLawful {m : Screen} (h : m.state.CurtainsLawful) {i : EntryIx} {f : Field} {bands : Table 4 Band}
    {dirty : List EntryIx} (hbands : ∀ k, bands.get k = { m.bands.get k with count := (bands.get k).count })
    (hcount : ∀ k, (bands.get k).count + (if (m.fields.get i).unpainted.get k then 1 else 0) =
      (m.bands.get k).count + (if f.unpainted.get k then 1 else 0))
    (hmarks : ∀ k, f.unpainted.get k = true → f.state = .live ∧ f.dirty = true ∧ appearsIn f (m.bands.get k) = true
      ∧ ((m.fields.get i).unpainted.get k = true ∨ (m.bands.get k).curtain = .curtained)) :
    (Screen.mk (m.fields.set i f) bands dirty).state.CurtainsLawful := by
  have hshows : ∀ k, (bands.get k).shows = (m.bands.get k).shows := fun k => by rw [hbands k]
  have hcurtain : ∀ k, (bands.get k).curtain = (m.bands.get k).curtain := fun k => by rw [hbands k]
  have hpending : ∀ k, (bands.get k).clearPending = (m.bands.get k).clearPending := fun k => by rw [hbands k]
  have hheight : ∀ k, (bands.get k).height = (m.bands.get k).height := fun k => by rw [hbands k]
  constructor
  case marks =>
    intro j k hm
    simp only [Screen.state_fields, Screen.state_bands, Table.get_set] at hm ⊢
    split at hm
    · rename_i hj
      obtain ⟨hl, hd, ha, -⟩ := hmarks k hm
      rw [if_pos hj, appearsIn_congr rfl rfl (hshows k)]
      exact ⟨hl, hd, ha⟩
    · rename_i hj
      rw [if_neg hj, appearsIn_congr rfl rfl (hshows k)]
      exact h.marks j k hm
  case counts =>
    intro k
    have hset := Table.count_set m.fields i f (fun f => f.unpainted.get k)
    have hold : (m.bands.get k).count = m.fields.count (fun f => f.unpainted.get k) := h.counts k
    have hnew := hcount k
    simp only [Screen.state_fields, Screen.state_bands]
    omega
  case curtained =>
    intro k b hb hc
    simp only [Screen.state_bands, hshows, hcurtain, hpending] at hb hc ⊢
    rcases hc with hc | hc
    · by_cases hold : 0 < (m.bands.get k).count
      · exact h.curtained k b hb (.inl hold)
      · have hm : f.unpainted.get k = true := by
          by_contra hm
          have hnew := hcount k
          rw [if_neg hm] at hnew
          omega
        obtain ⟨-, -, -, hmark | hcurt⟩ := hmarks k hm
        · exact absurd (h.count_pos hmark) hold
        · exact hcurt
    · exact h.curtained k b hb (.inr hc)
  case others =>
    intro k hb
    simp only [Screen.state_bands, hshows, hcurtain] at hb ⊢
    obtain ⟨hzero, hopen⟩ := h.others k hb
    have hm : ¬f.unpainted.get k = true := fun hm => not_showsBoard_iff.mpr hb (appearsIn_showsBoard (hmarks k hm).2.2.1)
    have hnew := hcount k
    rw [if_neg hm, show (m.bands.get k).count = 0 from hzero] at hnew
    exact ⟨by omega, hopen⟩
  case unused =>
    intro k hk
    simp only [Screen.state_bands, hshows, hpending, hheight] at hk ⊢
    exact h.unused k hk

/-- One band is written whose count stays, and which shows what its marks need. -/
theorem Screen.setBand_curtainsLawful {m : Screen} (h : m.state.CurtainsLawful) {k : BandIx} {b : Band}
    (hmarks : m.Unmarked k ∨ b.shows = (m.bands.get k).shows) (hcount : b.count = (m.bands.get k).count)
    (hcurtained : b.ShowsBoard → 0 < b.count ∨ b.clearPending = true → b.curtain = .curtained)
    (hothers : ¬b.ShowsBoard → b.count = 0 ∧ b.curtain = .opened)
    (hunused : b.height = 0 → b.shows = .nothing ∧ b.clearPending = false) :
    ({ m with bands := m.bands.set k b } : Screen).state.CurtainsLawful := by
  constructor
  case marks =>
    intro i j hm
    obtain ⟨hl, hd, ha⟩ := h.marks i j hm
    refine ⟨hl, hd, ?_⟩
    simp only [Screen.state_bands, Screen.state_fields, Table.get_set] at hm ha ⊢
    split
    · subst j
      rcases hmarks with hno | hsame
      · rw [hno i] at hm
        cases hm
      · rwa [appearsIn_congr rfl rfl hsame]
    · exact ha
  case counts =>
    intro j
    have hold := h.counts j
    simp only [Screen.state_bands, Screen.state_fields, Table.get_set] at hold ⊢
    split
    · subst j
      exact hcount.trans hold
    · exact hold
  case curtained =>
    intro j x hx hc
    simp only [Screen.state_bands, Table.get_set] at hx hc ⊢
    split at hx
    · rename_i hj
      rw [if_pos hj] at hc ⊢
      exact hcurtained ⟨x, hx⟩ hc
    · rename_i hj
      rw [if_neg hj] at hc ⊢
      exact h.curtained j x hx hc
  case others =>
    intro j hx
    simp only [Screen.state_bands, Table.get_set] at hx ⊢
    split at hx
    · rename_i hj
      rw [if_pos hj]
      exact hothers (not_showsBoard_iff.mpr hx)
    · rename_i hj
      rw [if_neg hj]
      exact h.others j hx
  case unused =>
    intro j hx
    simp only [Screen.state_bands, Table.get_set] at hx ⊢
    split at hx
    · rename_i hj
      rw [if_pos hj]
      exact hunused hx
    · rename_i hj
      rw [if_neg hj]
      exact h.unused j hx

/-- The count of a band with the property is lowered, and nothing else. -/
theorem lowerCounts_get (p : BandIx → Bool) (bands : Table 4 Band) (k : BandIx) : (lowerCounts p bands).get k =
    { bands.get k with count := (bands.get k).count - if p k then 1 else 0 } := by
  rw [lowerCounts, Table.get_ofFn]
  split <;> rfl

/-- One entry is written that keeps none of the marks with a property, and those are counted down. -/
theorem Screen.lowerField_curtainsLawful {m : Screen} (h : m.state.CurtainsLawful) {i : EntryIx} {f : Field} {p : BandIx → Bool}
    {dirty : List EntryIx}
    (hmark : ∀ k, (m.fields.get i).unpainted.get k = (f.unpainted.get k || p k) ∧ (f.unpainted.get k && p k) = false)
    (hmarks : ∀ k, f.unpainted.get k = true → f.state = .live ∧ f.dirty = true ∧ appearsIn f (m.bands.get k) = true) :
    (Screen.mk (m.fields.set i f) (lowerCounts p m.bands) dirty).state.CurtainsLawful := by
  apply Screen.setField_curtainsLawful h
  · intro k
    rw [lowerCounts_get]
  · intro k
    obtain ⟨hor, hand⟩ := hmark k
    rw [lowerCounts_get]
    cases hp : p k with
    | false => rw [hor, hp, Bool.or_false, if_neg Bool.false_ne_true, Nat.sub_zero]
    | true =>
      have hold : (m.fields.get i).unpainted.get k = true := by rw [hor, hp, Bool.or_true]
      have hnew : f.unpainted.get k = false := by rwa [hp, Bool.and_true] at hand
      have hpos : 0 < (m.bands.get k).count := h.count_pos hold
      rw [hold, hnew, if_pos rfl, if_neg Bool.false_ne_true]
      exact Nat.sub_add_cancel hpos
  · intro k hk
    obtain ⟨hl, hd, ha⟩ := hmarks k hk
    exact ⟨hl, hd, ha, .inl (by rw [(hmark k).1, hk, Bool.true_or])⟩

/-- A LIVE entry of a band that owes a clear takes its mark for it, and is counted there (R92). -/
theorem Screen.sweepField_curtainsLawful {m : Screen} (h : m.state.CurtainsLawful) {k : BandIx} {i : EntryIx}
    {dirty : List EntryIx} (hin : liveIn (m.bands.get k) (m.fields.get i) = true)
    (hpending : (m.bands.get k).clearPending = true) :
    (Screen.mk (m.fields.modify i (fun f => { f with unpainted := f.unpainted.set k true, dirty := true }))
      (m.bands.modify k (fun b => { b with count := b.count + (if (m.fields.get i).unpainted.get k then 0 else 1) }))
      dirty).state.CurtainsLawful := by
  obtain ⟨hlive, happears⟩ : (m.fields.get i).state = .live ∧ appearsIn (m.fields.get i) (m.bands.get k) = true := by
    simpa [liveIn] using hin
  obtain ⟨board, hboard⟩ := appearsIn_showsBoard happears
  apply Screen.setField_curtainsLawful h
  · intro j
    rw [Table.get_modify]
    split
    · subst j; rfl
    · rfl
  · intro j
    rw [Table.get_modify]
    simp only [Table.get_set]
    by_cases hj : j = k
    · subst hj
      cases (m.fields.get i).unpainted.get j <;> simp
    · simp [hj]
  · intro j hj
    rw [Table.get_set] at hj
    split at hj
    · subst j
      exact ⟨hlive, rfl, happears, .inr (h.curtained k board hboard (.inr hpending))⟩
    · obtain ⟨hl, -, ha⟩ := h.marks i j hj
      exact ⟨hl, rfl, ha, .inl hj⟩

/-- A new entry for a FREE one takes its mark for the bands whose curtain it holds, and is counted there (R88). -/
theorem Screen.mapField_curtainsLawful {m : Screen} (h : m.state.CurtainsLawful) {i : EntryIx} {f : Field}
    {dirty : List EntryIx} (hfree : (m.fields.get i).state = .free) (hlive : f.state = .live) :
    (Screen.mk (m.fields.set i { f with
        dirty := appears m.bands f
        unpainted := Table.ofFn (fun k => holdsCurtain f (m.bands.get k)) })
      (m.bands.map (fun b => if holdsCurtain f b = true then { b with count := b.count + 1 } else b))
      dirty).state.CurtainsLawful := by
  have hold := h.clear_of_not_live (i := i) (by rw [Screen.state_fields, hfree]; nofun)
  apply Screen.setField_curtainsLawful h
  · intro k
    rw [Table.get_map]
    split <;> rfl
  · intro k
    rw [Table.get_map, show (m.fields.get i).unpainted.get k = false from hold k, Table.get_ofFn]
    split <;> rfl
  · intro k hk
    rw [Table.get_ofFn] at hk
    obtain ⟨happears, hcurtain⟩ : appearsIn f (m.bands.get k) = true ∧ (m.bands.get k).curtain = .curtained := by
      simpa [holdsCurtain] using hk
    exact ⟨hlive, appears_of_appearsIn happears, happears, .inr hcurtain⟩

/-- The marks for a band are cleared, and its count with them. -/
theorem Screen.unmark_curtainsLawful {m : Screen} (h : m.state.CurtainsLawful) (k : BandIx) :
    ({ m with
      fields := m.fields.map (fun f => { f with unpainted := f.unpainted.set k false })
      bands := m.bands.modify k (fun b => { b with count := 0 }) } : Screen).state.CurtainsLawful := by
  -- a band of the screen is the old one, but for the count of band k
  have hband : ∀ j, (m.bands.modify k (fun b => { b with count := 0 })).get j =
      { m.bands.get j with count := if j = k then 0 else (m.bands.get j).count } := by
    intro j
    rw [Table.get_modify]
    split
    · subst j; rfl
    · rfl
  constructor
  case marks =>
    intro i j hm
    simp only [Screen.state_fields, Screen.state_bands, Table.get_map, hband, Table.get_set] at hm ⊢
    split at hm
    · cases hm
    · exact h.marks i j hm
  case counts =>
    intro j
    simp only [Screen.state_fields, Screen.state_bands, hband]
    split
    · subst j
      simp [Table.count_eq]
    · rename_i hj
      refine (h.counts j).trans (Table.count_congr fun i => ?_)
      rw [Table.get_map, Table.get_set_ne _ _ hj, Screen.state_fields]
  case curtained =>
    intro j b hb hc
    simp only [Screen.state_bands, hband] at hb hc ⊢
    refine h.curtained j b hb (hc.imp_left fun hpos => ?_)
    split at hpos
    · exact absurd hpos (lt_irrefl 0)
    · exact hpos
  case others =>
    intro j hb
    simp only [Screen.state_bands, hband] at hb ⊢
    obtain ⟨hzero, hopen⟩ := h.others j hb
    refine ⟨?_, hopen⟩
    split
    · rfl
    · exact hzero
  case unused =>
    intro j hj
    simp only [Screen.state_bands, hband] at hj ⊢
    exact h.unused j hj

/-- Every elementary change keeps the law of the curtains. -/
theorem Screen.Change.keeps_curtainsLawful {m n : Screen} (hc : m.Change n) (h : m.state.CurtainsLawful) :
    n.state.CurtainsLawful := by
  cases hc with
  | reset => exact State.curtainsLawful_iff.mp reset_curtainsLawful
  | marked i hlive hclean happears =>
    refine Screen.setField_curtainsLawful h (fun _ => rfl) (fun _ => rfl) ?_
    intro k hk
    obtain ⟨hl, -, ha⟩ := h.marks i k hk
    exact ⟨hl, rfl, ha, .inl hk⟩
  | swept k i hin hpending => exact Screen.sweepField_curtainsLawful h hin hpending
  | mapped i f hfree hlive hrange hduplicates hoverlaps => exact Screen.mapField_curtainsLawful h hfree hlive
  | retexted i text hitem hlength htext =>
    refine Screen.setField_curtainsLawful h (fun _ => rfl) (fun _ => rfl) ?_
    intro k hk
    obtain ⟨hl, hd, ha⟩ := h.marks i k hk
    exact ⟨hl, hd, ha, .inl hk⟩
  | erased i hlive =>
    apply Screen.lowerField_curtainsLawful h
    · intro k
      simp
    · intro k hk
      rw [Table.get_replicate] at hk
      cases hk
  | freed i =>
    apply Screen.lowerField_curtainsLawful h
    · intro k
      simp
    · intro k hk
      rw [free_unpainted_get] at hk
      cases hk
  | rendered i rest hhead hstate =>
    have hshown : ∀ k, (m.fields.get i).unpainted.get k = true → appearsIn (m.fields.get i) (m.bands.get k) = true :=
      fun k hk => (h.marks i k hk).2.2
    apply Screen.lowerField_curtainsLawful h
    · intro k
      rw [Table.get_ofFn]
      cases (m.fields.get i).unpainted.get k <;> simp
    · intro k hk
      rw [Table.get_ofFn] at hk
      cases hm : (m.fields.get i).unpainted.get k
      · simp [hm] at hk
      · simp [hshown k hm] at hk
  | released i rest hhead hstate =>
    have hold := h.clear_of_not_live (i := i) (by rw [Screen.state_fields, hstate]; nofun)
    refine Screen.setField_curtainsLawful h (fun _ => rfl) ?_ ?_
    · intro k
      rw [show (m.fields.get i).unpainted.get k = false from hold k, free_unpainted_get]
    · intro k hk
      rw [free_unpainted_get] at hk
      cases hk
  | unmarked k => exact Screen.unmark_curtainsLawful h k
  | hidden k hused hclear =>
    have hno := Screen.unmarked_of_lawful h hclear
    refine Screen.setBand_curtainsLawful h (.inl hno) (hno.count_eq h).symm ?_ ?_ ?_
    · rintro ⟨board, hb⟩
      cases hb
    · exact fun _ => ⟨rfl, rfl⟩
    · exact fun hh => absurd (h.unused k hh).1 (hused hh)
  | boarded k board hused hothers hclear =>
    refine Screen.setBand_curtainsLawful h (.inl (Screen.unmarked_of_lawful h hclear)) rfl ?_ ?_ ?_
    · exact fun _ _ => rfl
    · exact fun hb => absurd ⟨board, rfl⟩ hb
    · exact fun hh => absurd hh hused
  | taped k hused hsize hothers hclear =>
    have hno := Screen.unmarked_of_lawful h hclear
    refine Screen.setBand_curtainsLawful h (.inl hno) (hno.count_eq h).symm ?_ ?_ ?_
    · rintro ⟨board, hb⟩
      cases hb
    · exact fun _ => ⟨rfl, rfl⟩
    · exact fun hh => absurd hh hused
  | retired k top size background htop hclear =>
    refine Screen.setBand_curtainsLawful h (.inl hclear) (hclear.count_eq h).symm ?_ ?_ ?_
    · rintro ⟨board, hb⟩
      cases hb
    · exact fun _ => ⟨rfl, rfl⟩
    · exact fun _ => ⟨rfl, rfl⟩
  | resized k top height size background hheight hscreen hrows htape =>
    refine Screen.setBand_curtainsLawful h (.inr rfl) rfl ?_ ?_ ?_
    · exact fun ⟨board, hb⟩ => h.curtained k board hb
    · exact fun hb => h.others k (not_showsBoard_iff.mp hb)
    · exact fun hh => absurd hh hheight.ne'
  | veiled k hboard =>
    obtain ⟨board, hb⟩ := hboard
    refine Screen.setBand_curtainsLawful h (.inr rfl) rfl ?_ ?_ ?_
    · exact fun _ _ => rfl
    · exact fun hno => absurd ⟨board, hb⟩ hno
    · intro hh
      have hnothing : (m.bands.get k).shows = .nothing := (h.unused k hh).1
      rw [hb] at hnothing
      cases hnothing
  | cleared k =>
    refine Screen.setBand_curtainsLawful h (.inr rfl) rfl ?_ ?_ ?_
    · rintro ⟨board, hb⟩ (hc | hc)
      · exact h.curtained k board hb (.inl hc)
      · cases hc
    · exact fun hb => h.others k (not_showsBoard_iff.mp hb)
    · exact fun hh => ⟨(h.unused k hh).1, rfl⟩
  | opened k hopen =>
    refine Screen.setBand_curtainsLawful h (.inr rfl) rfl ?_ ?_ ?_
    · intro hb hc
      obtain ⟨-, hzero, hpending⟩ : (m.bands.get k).curtain = .curtained ∧ (m.bands.get k).count = 0
          ∧ (m.bands.get k).clearPending = false := by
        simpa [openable, and_assoc] using hopen.resolve_left (not_not.mpr hb)
      rcases hc with hc | hc
      · have hpos : 0 < (m.bands.get k).count := hc
        omega
      · exact absurd (hpending.symm.trans hc) Bool.false_ne_true
    · exact fun hb => ⟨(h.others k (not_showsBoard_iff.mp hb)).1, rfl⟩
    · exact h.unused k

/-! ### The law of the bands (R138, R139, R155) -/

theorem holdsRow_iff {row : Nat} {b : Band} : holdsRow row b = true ↔ b.top ≤ row ∧ row < b.top + b.height := by
  simp [holdsRow]

/-- A band shows what no other band shows, but for NONE. -/
theorem State.BandsLawful.shows_ne {s : State} (h : s.BandsLawful) {j k : BandIx} (hjk : j ≠ k)
    (hk : (s.bands.get k).shows ≠ .nothing) : (s.bands.get j).shows ≠ (s.bands.get k).shows := by
  intro he
  cases hs : (s.bands.get k).shows with
  | nothing => exact hk hs
  | board b => exact hjk (h.boards j k b (he.trans hs) hs)
  | tape => exact hjk (h.oneTape j k (he.trans hs) hs)

/-- One band is written that lies on the screen apart from the others and shows none of what they show but NONE. -/
theorem Screen.setBand_bandsLawful {m : Screen} (h : m.state.BandsLawful) {k : BandIx} {b : Band}
    (hscreen : b.top + b.height ≤ 36)
    (hapart : ∀ j, j ≠ k → ∀ row, holdsRow row b = true → holdsRow row (m.bands.get j) = false)
    (hshows : ∀ j, j ≠ k → b.shows ≠ .nothing → (m.bands.get j).shows ≠ b.shows)
    (hsize : b.shows = .tape → doubleWidth b.size = false) :
    ({ m with bands := m.bands.set k b } : Screen).state.BandsLawful := by
  have hdiffer : ∀ i j, i ≠ j → ((m.bands.set k b).get i).shows ≠ .nothing →
      ((m.bands.set k b).get j).shows ≠ ((m.bands.set k b).get i).shows := by
    intro i j hij hi
    rw [Table.get_set] at hi ⊢
    rw [Table.get_set]
    by_cases hik : i = k
    · rw [if_pos hik] at hi ⊢
      have hjk : j ≠ k := fun hjk => hij (hik.trans hjk.symm)
      rw [if_neg hjk]
      exact hshows j hjk hi
    · rw [if_neg hik] at hi ⊢
      split
      · exact fun he => hshows i hik (he ▸ hi) he.symm
      · exact h.shows_ne hij.symm hi
  constructor
  case onScreen =>
    intro j
    simp only [Screen.state_bands, Table.get_set]
    split
    · exact hscreen
    · exact h.onScreen j
  case apart =>
    intro i j row hij hi
    simp only [Screen.state_bands, Table.get_set] at hi ⊢
    split at hi
    · subst i
      rw [if_neg hij.symm]
      exact hapart j hij.symm row hi
    · rename_i hik
      split
      · rw [← Bool.not_eq_true]
        exact fun hb => Bool.false_ne_true ((hapart i hik row hb).symm.trans hi)
      · exact h.apart i j row hij hi
  case boards =>
    intro i j x hi hj
    by_contra hij
    exact hdiffer i j hij (fun hn => by cases hi.symm.trans hn) (hj.trans hi.symm)
  case oneTape =>
    intro i j hi hj
    by_contra hij
    exact hdiffer i j hij (fun hn => by cases hi.symm.trans hn) (hj.trans hi.symm)
  case tapeSize =>
    intro j hj
    simp only [Screen.state_bands, Table.get_set] at hj ⊢
    split at hj
    · rename_i hjk
      rw [if_pos hjk]
      exact hsize hj
    · rename_i hjk
      rw [if_neg hjk]
      exact h.tapeSize j hj

/-- One band shows something else, where it stands. -/
theorem Screen.showBand_bandsLawful {m : Screen} (h : m.state.BandsLawful) {k : BandIx} {b : Band}
    (hplace : b.top = (m.bands.get k).top ∧ b.height = (m.bands.get k).height)
    (hshows : ∀ j, j ≠ k → b.shows ≠ .nothing → (m.bands.get j).shows ≠ b.shows)
    (hsize : b.shows = .tape → doubleWidth b.size = false) :
    ({ m with bands := m.bands.set k b } : Screen).state.BandsLawful := by
  obtain ⟨htop, hheight⟩ := hplace
  refine Screen.setBand_bandsLawful h ?_ (fun j hj row hrow => ?_) hshows hsize
  · rw [htop, hheight]
    exact h.onScreen k
  · rw [holdsRow_iff, htop, hheight, ← holdsRow_iff] at hrow
    exact h.apart k j row hj.symm hrow

/-- The bands stand where they stood and show what they showed. -/
theorem Screen.bandsLawful_congr {m n : Screen} (h : m.state.BandsLawful)
    (hn : ∀ k, (n.bands.get k).top = (m.bands.get k).top ∧ (n.bands.get k).height = (m.bands.get k).height
      ∧ (n.bands.get k).size = (m.bands.get k).size ∧ (n.bands.get k).shows = (m.bands.get k).shows) :
    n.state.BandsLawful := by
  have htop : ∀ k, (n.bands.get k).top = (m.bands.get k).top := fun k => (hn k).1
  have hheight : ∀ k, (n.bands.get k).height = (m.bands.get k).height := fun k => (hn k).2.1
  have hsize : ∀ k, (n.bands.get k).size = (m.bands.get k).size := fun k => (hn k).2.2.1
  have hshows : ∀ k, (n.bands.get k).shows = (m.bands.get k).shows := fun k => (hn k).2.2.2
  have hrow : ∀ k row, holdsRow row (n.bands.get k) = holdsRow row (m.bands.get k) := fun k row => by
    rw [holdsRow, holdsRow, htop, hheight]
  constructor
  case onScreen =>
    intro k
    rw [Screen.state_bands, htop, hheight]
    exact h.onScreen k
  case apart =>
    intro j k row hjk hj
    rw [Screen.state_bands, hrow] at hj ⊢
    exact h.apart j k row hjk hj
  case boards =>
    intro j k b hj hk
    rw [Screen.state_bands, hshows] at hj hk
    exact h.boards j k b hj hk
  case oneTape =>
    intro j k hj hk
    rw [Screen.state_bands, hshows] at hj hk
    exact h.oneTape j k hj hk
  case tapeSize =>
    intro k hk
    rw [Screen.state_bands, hshows] at hk
    rw [Screen.state_bands, hsize]
    exact h.tapeSize k hk

/-- A change of one band that moves nothing and shows nothing else keeps the law. -/
theorem Screen.modifyBand_bandsLawful {m : Screen} (h : m.state.BandsLawful) {fields : Table 256 Field} {dirty : List EntryIx}
    (k : BandIx) {g : Band → Band}
    (hg : ∀ b, (g b).top = b.top ∧ (g b).height = b.height ∧ (g b).size = b.size ∧ (g b).shows = b.shows) :
    (Screen.mk fields (m.bands.modify k g) dirty).state.BandsLawful := by
  refine Screen.bandsLawful_congr h fun j => ?_
  dsimp only
  rw [Table.get_modify]
  split
  · subst j
    exact hg _
  · exact ⟨rfl, rfl, rfl, rfl⟩

theorem lowerCounts_bandsLawful {m : Screen} (h : m.state.BandsLawful) {fields : Table 256 Field} {dirty : List EntryIx}
    (p : BandIx → Bool) : (Screen.mk fields (lowerCounts p m.bands) dirty).state.BandsLawful := by
  refine Screen.bandsLawful_congr h fun k => ?_
  dsimp only
  rw [lowerCounts_get]
  exact ⟨rfl, rfl, rfl, rfl⟩

/-- The rows that BAND takes are those that no other band holds (R139, R140). -/
theorem holdsRow_of_not_rowsTaken {bands : Table 4 Band} {k : BandIx} {top height : Nat}
    (h : rowsTaken bands k top height = false) {j : BandIx} (hj : j ≠ k) {row : Nat} (hmin : top ≤ row)
    (hmax : row < top + height) : holdsRow row (bands.get j) = false := by
  have hno := List.any_eq_false.mp h j (mem_allBands j)
  rw [← Bool.not_eq_true, holdsRow_iff]
  rintro ⟨hlow, hhigh⟩
  simp only [Bool.and_eq_true, decide_eq_true_eq] at hno
  exact hno ⟨⟨⟨hj, by omega⟩, by omega⟩, by omega⟩

/-- Every elementary change keeps the law of the bands. -/
theorem Screen.Change.keeps_bandsLawful {m n : Screen} (hc : m.Change n) (h : m.state.BandsLawful) : n.state.BandsLawful := by
  cases hc with
  | reset => exact State.bandsLawful_iff.mp reset_bandsLawful
  | marked | retexted | released => exact Screen.bandsLawful_congr h fun _ => ⟨rfl, rfl, rfl, rfl⟩
  | mapped i f =>
    refine Screen.bandsLawful_congr h fun k => ?_
    dsimp only
    rw [Table.get_map]
    split <;> exact ⟨rfl, rfl, rfl, rfl⟩
  | swept k | unmarked k | veiled k | cleared k | opened k =>
    exact Screen.modifyBand_bandsLawful h k fun _ => ⟨rfl, rfl, rfl, rfl⟩
  | erased | freed | rendered => exact lowerCounts_bandsLawful h _
  | hidden k hused hclear => exact Screen.showBand_bandsLawful h ⟨rfl, rfl⟩ (fun _ _ hb => absurd rfl hb) nofun
  | boarded k board hused hothers hclear =>
    exact Screen.showBand_bandsLawful h ⟨rfl, rfl⟩ (fun j hj _ => hothers j hj) nofun
  | taped k hused hsize hothers hclear =>
    exact Screen.showBand_bandsLawful h ⟨rfl, rfl⟩ (fun j hj _ => hothers j hj) (fun _ => hsize)
  | retired k top size background htop hclear =>
    refine Screen.setBand_bandsLawful h htop (fun j hj row hrow => ?_) (fun _ _ hb => absurd rfl hb) nofun
    have hempty : top ≤ row ∧ row < top + 0 := holdsRow_iff.mp hrow
    omega
  | resized k top height size background hheight hscreen hrows htape =>
    refine Screen.setBand_bandsLawful h hscreen (fun j hj row hrow => ?_) (fun j hj hb => h.shows_ne hj hb) htape
    obtain ⟨hmin, hmax⟩ := holdsRow_iff.mp hrow
    exact holdsRow_of_not_rowsTaken hrows hj hmin hmax

/-! ### The law of the layout (R81, R84) -/

theorem canMeet_comm (a b : Placement) : canMeet a b = canMeet b a := by
  simp only [canMeet, Bool.or_comm (decide (a = .common)), eq_comm (a := a) (b := b)]

theorem sharesCell_comm (a b : Field) : sharesCell a b = sharesCell b a := by
  simp only [sharesCell, Bool.and_assoc, Bool.and_comm (decide (a.column < _)), eq_comm (a := a.row)]

/-- An entry is LIVE only where it was before, with the same place and the same slot and item. -/
def Field.StaysLive (f g : Field) : Prop :=
  g.state = .live → f.state = .live
    ∧ g = { f with state := g.state, text := g.text, dirty := g.dirty, unpainted := g.unpainted }

/-- Entries that are LIVE only where they were, and in their ranges, keep the law. -/
theorem Screen.layoutLawful_of_staysLive {m n : Screen} (h : m.state.LayoutLawful)
    (hranges : ∀ i, (n.fields.get i).state ≠ .free → (n.fields.get i).InRange)
    (hlive : ∀ i, (m.fields.get i).StaysLive (n.fields.get i)) : n.state.LayoutLawful := by
  constructor
  case ranges => exact hranges
  case cells =>
    intro i j hij hi hj hmeet
    obtain ⟨hi', hfi⟩ := hlive i hi
    obtain ⟨hj', hfj⟩ := hlive j hj
    rw [Screen.state_fields, hfi, hfj] at hmeet ⊢
    exact h.cells i j hij hi' hj' hmeet
  case items =>
    intro i j hij hi hj hmeet hitem
    obtain ⟨hi', hfi⟩ := hlive i hi
    obtain ⟨hj', hfj⟩ := hlive j hj
    rw [Screen.state_fields, hfi] at hitem
    rw [Screen.state_fields, hfi, hfj] at hmeet ⊢
    exact h.items i j hij hi' hj' hmeet hitem

/-- One entry is written that is LIVE only if it was. -/
theorem Screen.setField_layoutLawful {m : Screen} (h : m.state.LayoutLawful) {i : EntryIx} {f : Field} {bands : Table 4 Band}
    {dirty : List EntryIx} (hrange : f.state ≠ .free → f.InRange) (hlive : (m.fields.get i).StaysLive f) :
    (Screen.mk (m.fields.set i f) bands dirty).state.LayoutLawful := by
  refine Screen.layoutLawful_of_staysLive h (fun j => ?_) (fun j => ?_)
  · dsimp only
    rw [Table.get_set]
    split
    · exact hrange
    · exact h.ranges j
  · dsimp only
    rw [Table.get_set]
    split
    · subst j
      exact hlive
    · exact fun hj => ⟨hj, rfl⟩

/-- A new text keeps an entry's ranges (R97). -/
theorem Field.InRange.withText {f : Field} (h : f.InRange) {text : List Byte} (hitem : f.item = .text)
    (hlength : text.length ≤ 16) (htext : ∀ b ∈ text, printable b = true) : ({ f with text := text } : Field).InRange :=
  ⟨h.row, h.width, h.column, h.slot, hlength, fun hno => absurd hitem hno, htext⟩

/-- The state and the marks of an entry are not in its ranges. -/
theorem Field.InRange.withMarks {f : Field} (h : f.InRange) (state : FieldState) (dirty : Bool) (unpainted : Table 4 Bool) :
    ({ f with state := state, dirty := dirty, unpainted := unpainted } : Field).InRange :=
  ⟨h.row, h.width, h.column, h.slot, h.textLength, h.textOnly, h.text⟩

/-- An entry that nothing stands in the way of joins a lawful layout (R84, R87). -/
theorem Screen.mapField_layoutLawful {m : Screen} (h : m.state.LayoutLawful) {i : EntryIx} {f : Field} {bands : Table 4 Band}
    {dirty : List EntryIx} (hrange : f.InRange) (hduplicates : ∀ j, duplicates f (m.fields.get j) = false)
    (hoverlaps : ∀ j, overlaps f (m.fields.get j) = false) :
    (Screen.mk (m.fields.set i f) bands dirty).state.LayoutLawful := by
  have hcells : ∀ j, (m.fields.get j).state = .live → canMeet f.placement (m.fields.get j).placement = true →
      sharesCell f (m.fields.get j) = false := by
    intro j hj hmeet
    rw [← Bool.not_eq_true]
    exact fun hs => Bool.false_ne_true ((hoverlaps j).symm.trans (overlaps_iff.mpr ⟨hj, hmeet, hs⟩))
  have hitems : ∀ j, (m.fields.get j).state = .live → canMeet f.placement (m.fields.get j).placement = true → f.item ≠ .text →
      ¬((m.fields.get j).slot = f.slot ∧ (m.fields.get j).item = f.item) :=
    fun j hj hmeet hitem hsame => Bool.false_ne_true
      ((hduplicates j).symm.trans (duplicates_iff.mpr ⟨hj, hitem, hmeet, hsame⟩))
  constructor
  case ranges =>
    intro j hj
    rw [Screen.state_fields, Table.get_set] at hj ⊢
    split at hj
    · rename_i hji
      rw [if_pos hji]
      exact hrange
    · rename_i hji
      rw [if_neg hji]
      exact h.ranges j hj
  case cells =>
    intro j k hjk hj hk hmeet
    simp only [Screen.state_fields, Table.get_set] at hj hk hmeet ⊢
    by_cases hji : j = i
    · have hki : k ≠ i := fun hki => hjk (hji.trans hki.symm)
      simp only [if_pos hji, if_neg hki] at hk hmeet ⊢
      exact hcells k hk hmeet
    · by_cases hki : k = i
      · simp only [if_neg hji, if_pos hki] at hj hmeet ⊢
        rw [sharesCell_comm]
        exact hcells j hj (canMeet_comm _ _ ▸ hmeet)
      · simp only [if_neg hji, if_neg hki] at hj hk hmeet ⊢
        exact h.cells j k hjk hj hk hmeet
  case items =>
    intro j k hjk hj hk hmeet hitem hsame
    simp only [Screen.state_fields, Table.get_set] at hj hk hmeet hitem hsame
    by_cases hji : j = i
    · have hki : k ≠ i := fun hki => hjk (hji.trans hki.symm)
      simp only [if_pos hji, if_neg hki] at hk hmeet hitem hsame
      exact hitems k hk hmeet hitem ⟨hsame.1.symm, hsame.2.symm⟩
    · by_cases hki : k = i
      · simp only [if_neg hji, if_pos hki] at hj hmeet hitem hsame
        exact hitems j hj (canMeet_comm _ _ ▸ hmeet) (hsame.2 ▸ hitem) hsame
      · simp only [if_neg hji, if_neg hki] at hj hk hmeet hitem hsame
        exact h.items j k hjk hj hk hmeet hitem hsame

/-- Every elementary change keeps the law of the layout. -/
theorem Screen.Change.keeps_layoutLawful {m n : Screen} (hc : m.Change n) (h : m.state.LayoutLawful) :
    n.state.LayoutLawful := by
  cases hc with
  | reset => exact State.layoutLawful_iff.mp reset_layoutLawful
  | marked i | swept k i | rendered i =>
    exact Screen.setField_layoutLawful h (fun hs => (h.ranges i hs).withMarks _ _ _) fun hl => ⟨hl, rfl⟩
  | mapped i f hfree hlive hrange hduplicates hoverlaps =>
    exact Screen.mapField_layoutLawful h (hrange.withMarks _ _ _) hduplicates hoverlaps
  | retexted i text hitem hlength htext =>
    exact Screen.setField_layoutLawful h (fun hs => (h.ranges i hs).withText hitem hlength htext) fun hl => ⟨hl, rfl⟩
  | erased i hlive =>
    refine Screen.setField_layoutLawful h (fun _ => (h.ranges i ?_).withMarks _ _ _) nofun
    rw [Screen.state_fields, hlive]
    nofun
  | freed i | released i => exact Screen.setField_layoutLawful h (absurd free_state) nofun
  | unmarked k =>
    refine Screen.layoutLawful_of_staysLive h (fun i hs => ?_) (fun i hl => ?_)
    · rw [Table.get_map] at hs ⊢
      exact (h.ranges i hs).withMarks _ _ _
    · rw [Table.get_map] at hl ⊢
      exact ⟨hl, rfl⟩
  | hidden | boarded | taped | retired | resized | veiled | cleared | opened => exact ⟨h.ranges, h.cells, h.items⟩

end Sys2Proof.Machine
end

section
/-! SUPPORT. Marks, the step of a request, the requests of the Field Map, and sweeps as chains of the elementary changes of the
screen's parts; and what leaves those parts alone. -/

namespace Sys2Proof.Machine

open Sys2Proof

/-! ### Updates that leave the three parts alone -/

@[simp] theorem State.takeHead_screen (s : State) : s.takeHead.screen = s.screen := rfl
@[simp] theorem State.place_screen (r : Record) (s : State) : (s.place r).screen = s.screen := rfl
@[simp] theorem State.reply_screen (r : Record) (s : State) : (s.reply r).screen = s.screen := rfl
@[simp] theorem State.ack_screen (kind : Byte) (value : Nat) (s : State) : (s.ack kind value).screen = s.screen := rfl
@[simp] theorem State.reject_screen (kind : Byte) (reason : Reason) (s : State) : (s.reject kind reason).screen = s.screen := rfl
@[simp] theorem State.setLink_screen (l : Link) (s : State) : (s.setLink l).screen = s.screen := rfl
@[simp] theorem State.setRecord_screen (slot : Slot) (q : Quote) (s : State) : (s.setRecord slot q).screen = s.screen := rfl
@[simp] theorem State.setWatch_screen (w : FeedWatch) (s : State) : (s.setWatch w).screen = s.screen := rfl
@[simp] theorem State.setScan_screen (scan : HeatScan) (s : State) : (s.setScan scan).screen = s.screen := rfl
@[simp] theorem State.setWork_screen (w : PaintWork) (s : State) : (s.setWork w).screen = s.screen := rfl
@[simp] theorem State.updateWork_screen (s : State) : s.updateWork.screen = s.screen := rfl
@[simp] theorem State.setCells_screen (c : CellStore) (s : State) : (s.setCells c).screen = s.screen := rfl

@[simp] theorem State.modifyBand_screen (k : BandIx) (f : Band → Band) (s : State) :
    (s.modifyBand k f).screen = { s.screen with bands := s.bands.modify k f } := rfl

@[simp] theorem State.placed_screen (s : State) : s.placed.screen = s.screen := by
  unfold State.placed
  split <;> rfl

@[simp] theorem State.admissionMade_screen (s : State) : s.admissionMade.screen = s.screen := by
  unfold State.admissionMade
  split
  · rfl
  · exact s.placed_screen

@[simp] theorem State.offerPrint_screen (slot : Slot) (tape : Bool) (items : TickItems) (s : State) :
    (s.offerPrint slot tape items).screen = s.screen := by
  unfold State.offerPrint
  split
  · split <;> rfl
  · rfl

@[simp] theorem State.leaveTape_screen (shown : Shows) (s : State) : (s.leaveTape shown).screen = s.screen := by
  unfold State.leaveTape
  split <;> rfl

@[simp] theorem State.eraseFrom_screen (f : Field) (s : State) (k : BandIx) : (s.eraseFrom f k).screen = s.screen := by
  unfold State.eraseFrom
  split <;> rfl

@[simp] theorem State.startFrame_screen (s : State) : s.startFrame.screen = s.screen := by
  have htaking : ∀ t : State, t.frameTaking.screen = t.screen := by
    intro t
    unfold State.frameTaking Painter.resetFill
    split <;> rfl
  unfold State.startFrame
  split
  · split
    · rw [htaking]
      rfl
    · exact htaking s
  · rfl

@[simp] theorem State.readFrame_screen (s : State) : s.readFrame.screen = s.screen := by
  unfold State.readFrame
  split <;> rfl

/-- A walk that leaves the three parts alone at every step leaves them alone. -/
theorem State.foldl_screen {α : Type} {f : State → α → State} (h : ∀ s a, (f s a).screen = s.screen) (l : List α) (s : State) :
    (l.foldl f s).screen = s.screen := by
  induction l generalizing s with
  | nil => rfl
  | cons a l ih => rw [List.foldl_cons, ih, h]

/-- A walk that makes a chain of changes at every step makes a chain of changes. -/
theorem State.foldl_redraws {α : Type} {f : State → α → State} (h : ∀ (s : State) a, s.screen.Changes (f s a).screen) (l : List α)
    (s : State) : s.screen.Changes (l.foldl f s).screen := by
  induction l generalizing s with
  | nil => exact .refl
  | cons a l ih => exact (h s a).trans (ih (f s a))

/-! ### Marks (R98, R99, R122) -/

theorem State.markEntry_redraws (s : State) (i : EntryIx) : s.screen.Changes (s.markEntry i).screen := by
  unfold State.markEntry
  split
  · rename_i hm
    simp only [State.markable, Bool.and_eq_true, decide_eq_true_eq, Bool.not_eq_true'] at hm
    obtain ⟨⟨hlive, hclean⟩, happears⟩ := hm
    exact .single (.marked i hlive hclean happears)
  · exact .refl

theorem State.markWhere_redraws (p : Field → Bool) (s : State) : s.screen.Changes (s.markWhere p).screen :=
  State.foldl_redraws State.markEntry_redraws _ s

theorem State.markItems_redraws (slot : Slot) (items : List Item) (s : State) :
    s.screen.Changes (s.markItems slot items).screen :=
  State.foldl_redraws (fun t item => t.markWhere_redraws (showsItem slot item)) items s

theorem State.carryOut_redraws (marks : Marks) (s : State) : s.screen.Changes (s.carryOut marks).screen := by
  cases marks with
  | lookups slot items => exact s.markItems_redraws slot items
  | sweep set attr => exact s.markWhere_redraws (inPalette set)

theorem State.handOver_redraws (marks : Marks) (s : State) : s.screen.Changes (s.handOver marks).screen := by
  unfold State.handOver
  split
  · exact .refl
  · exact s.carryOut_redraws marks

theorem State.settled_redraws (s : State) : s.screen.Changes s.settled.screen := by
  unfold State.settled
  split
  · exact State.carryOut_redraws _ { s with owed := none }
  · exact .refl

theorem State.ready_redraws (s : State) : s.screen.Changes s.ready.screen := by
  rw [State.ready, State.placed_screen]
  exact s.settled_redraws

theorem State.feedChanged_redraws (s : State) : s.screen.Changes s.feedChanged.screen :=
  s.markWhere_redraws fun f => priceBearing f.item

theorem State.reloadFeed_redraws (s : State) : s.screen.Changes s.reloadFeed.screen := by
  unfold State.reloadFeed
  split
  · exact .refl
  · exact .refl
  · simpa using State.feedChanged_redraws (s.setWatch _)

theorem State.expire_redraws (s : State) : s.screen.Changes s.expire.screen := by
  unfold State.expire
  split
  · simpa using State.feedChanged_redraws (s.setWatch _)
  · exact .refl
  · exact .refl

/-! ### The step of a request (R173) -/

/-- The step of a request changes the three parts as the marks that were still to come and its work do. -/
theorem request_redraws {α : Type} {kind : Byte} {parse : List Byte → Except Reason α} {work : α → State → State} {s t : State}
    (hw : ∀ p a (u : State), parse p = .ok a → u.screen.Changes (work a u).screen) (h : request kind parse work s = .next t) :
    s.screen.Changes t.screen := by
  rcases request_cases h with rfl | ⟨reason, rfl⟩ | ⟨p, a, ha, rfl⟩
  · exact s.ready_redraws
  · exact s.ready_redraws
  · exact s.ready_redraws.trans (hw p a s.ready.takeHead ha)

/-- The step of a request whose work leaves the three parts alone. -/
theorem request_keeps_screen {α : Type} {kind : Byte} {parse : List Byte → Except Reason α} {work : α → State → State}
    {s t : State} (hw : ∀ a (u : State), (work a u).screen = u.screen) (h : request kind parse work s = .next t) :
    s.screen.Changes t.screen :=
  request_redraws (fun _ a u _ => .of_eq (hw a u)) h

/-! ### The Instrument Table, Quote Intake and the Colour Unit -/

theorem defineWork_redraws (r : DefineReq) (s : State) : s.screen.Changes (defineWork r s).screen := by
  simpa [defineWork] using State.markItems_redraws r.slot slotItems (s.setRecord r.slot (definedQuote r.format r.symbol))

theorem clearWork_redraws (slot : Slot) (s : State) : s.screen.Changes (clearWork slot s).screen := by
  unfold clearWork
  split
  · exact .refl
  · simpa using State.markItems_redraws slot _ (s.setRecord slot _)

theorem tradingWork_redraws (kind : Byte) (state : RecState) (slot : Slot) (s : State) :
    s.screen.Changes (tradingWork kind state slot s).screen := by
  unfold tradingWork
  split
  · exact .refl
  · simpa using State.markItems_redraws slot _ (s.setRecord slot _)

theorem setrefWork_redraws (r : Slot × Option Nat) (s : State) : s.screen.Changes (setrefWork r s).screen := by
  unfold setrefWork
  split
  · exact .refl
  · simpa using State.markItems_redraws r.1 _ (s.setRecord r.1 _)

theorem openDayWork_redraws (s : State) : s.screen.Changes (openDayWork () s).screen :=
  State.markWhere_redraws _ { s with records := s.records.map rollQuote }

theorem State.applyAndPrint_redraws (slot : Slot) (tape : Bool) (it : TickItems) (s : State) :
    s.screen.Changes (s.applyAndPrint slot tape it).screen := by
  rw [State.applyAndPrint, State.offerPrint_screen]
  exact s.settled_redraws.trans (State.handOver_redraws _ (s.settled.setRecord slot _))

theorem tickWork_redraws (r : TickReq) (s : State) : s.screen.Changes (tickWork r s).screen := by
  refine s.reloadFeed_redraws.trans ?_
  unfold tickWork
  dsimp only
  split
  · unfold State.disposeHit
    split
    · exact State.applyAndPrint_redraws _ _ _ _
    · split <;> exact .refl
  · exact .refl

theorem releaseEntries_redraws (l : List Staged) (applied : Nat) (s : State) :
    s.screen.Changes (releaseEntries l applied s).2.screen := by
  induction l generalizing applied s with
  | nil => exact .refl
  | cons e l ih =>
    unfold releaseEntries
    split
    · exact ih _ _
    · exact (s.applyAndPrint_redraws _ _ _).trans (ih _ _)

theorem continueRelease_redraws (n dealt applied : Nat) (s : State) :
    s.screen.Changes (continueRelease n dealt applied s).screen := by
  unfold continueRelease
  split
  · exact s.settled_redraws
  · dsimp only
    split <;> exact releaseEntries_redraws _ _ _

theorem execRelease_redraws {n : Nat} {s t : State} (h : execRelease n s = .next t) : s.screen.Changes t.screen := by
  unfold execRelease at h
  split at h
  · cases h
    exact continueRelease_redraws _ _ _ _
  · exact request_redraws (fun _ _ u _ => continueRelease_redraws n 0 0 u) h
  · exact request_redraws (fun _ _ u _ => continueRelease_redraws n 0 0 u) h
  · cases h
    exact s.settled_redraws

theorem watchWork_redraws (period : Nat) (s : State) : s.screen.Changes (watchWork period s).screen := by
  unfold watchWork
  rw [State.ack_screen]
  split
  · exact .refl
  · simpa using State.reloadFeed_redraws (s.setWatch _)
  · simpa using State.reloadFeed_redraws (s.setWatch _)

theorem State.scanStep_redraws (s : State) : s.screen.Changes s.scanStep.screen := by
  have hvisit : ∀ slot, s.screen.Changes (s.visit slot).screen := by
    intro slot
    unfold State.visit
    dsimp only
    split
    · exact .refl
    · split
      · exact .refl
      · exact State.handOver_redraws _ (s.setRecord slot _)
  unfold State.scanStep
  split
  · exact hvisit _
  · exact .refl

theorem setpalWork_redraws (r : SetIx × Fin 14 × AttrIx) (s : State) : s.screen.Changes (setpalWork r s).screen :=
  State.handOver_redraws (.sweep r.1 r.2.2) { s with colour := { s.colour with
    palettes := s.colour.palettes.modify r.1 (fun p => p.set r.2.1 r.2.2) } }

theorem installWork_screen (e : DirEntry) (s : State) : (installWork e s).screen = s.screen := by
  unfold installWork
  split
  · rfl
  · split
    · rfl
    · split
      · rfl
      · split <;> rfl

theorem removeWork_screen (r : Venue × Bool × Code) (s : State) : (removeWork r s).screen = s.screen := by
  unfold removeWork
  split <;> rfl

theorem tapetextWork_screen (text : List Byte) (s : State) : (tapetextWork text s).screen = s.screen := by
  unfold tapetextWork
  split
  · rfl
  · split <;> rfl

/-! ### The Field Map (R86 to R91, R97) -/

/-- A MAP that passes its checks asks for a clean LIVE entry in its ranges (R86). -/
theorem parseMap_entry {p : List Byte} {f : Field} (h : parseMap p = .ok f) :
    f.state = .live ∧ f.dirty = false ∧ f.unpainted = Table.replicate 4 false ∧ f.InRange := by
  unfold parseMap at h
  split at h
  · cases h
  · rename_i hlen
    split at h
    · rename_i placement item palette steady _ _ _ _
      rcases ite_eq_iff.mp h with ⟨hr, h⟩ | ⟨-, h⟩
      · obtain ⟨hslot, hrow, -, hmin, hmax, hcolumn, htext⟩ := hr
        have hl : (p.drop 10).length = fieldAt p 9 1 := by
          rw [List.length_drop]
          omega
        cases h
        refine ⟨rfl, rfl, rfl, hrow, ⟨hmin, hmax⟩, hcolumn, ?_, ?_, fun hitem => ?_, fun b hb => ?_⟩
        · by_cases hitem : item = .text
          · simp [hitem]
          · simp [hitem, inRange_of_lt (hslot.resolve_left hitem)]
        · dsimp only
          rw [List.length_map, hl]
          split at htext <;> omega
        · have hitem' : item ≠ .text := hitem
          rw [if_neg hitem', ← hl] at htext
          exact List.map_eq_nil_iff.mpr (List.length_eq_zero_iff.mp (Nat.le_zero.mp htext))
        · obtain ⟨c, -, rfl⟩ := List.mem_map.mp hb
          exact printable_sanitise c
      · cases h
    · cases h

theorem mapWork_redraws {p : List Byte} {f : Field} (h : parseMap p = .ok f) (s : State) :
    s.screen.Changes (mapWork f s).screen := by
  obtain ⟨hlive, hclean, hclear, hrange⟩ := parseMap_entry h
  unfold mapWork
  split
  · exact .refl
  · rename_i hd
    split
    · exact .refl
    · rename_i ho
      split
      · exact .refl
      · rename_i i hi
        rw [State.ack_screen, State.updateWork_screen, State.placeEntry_eq s hlive hclean hclear]
        obtain ⟨hfree, -⟩ := Table.lowest_eq_some.mp hi
        exact .single (.mapped i f (of_decide_eq_true hfree) hlive hrange (Table.any_eq_false.mp (Bool.not_eq_true _ ▸ hd))
          (Table.any_eq_false.mp (Bool.not_eq_true _ ▸ ho)))

theorem State.freeEntry_redraws (s : State) (i : EntryIx) : s.screen.Changes (s.freeEntry i).screen := by
  rw [State.freeEntry_eq]
  exact .single (.freed i)

theorem unmapWork_redraws (i : EntryIx) (s : State) : s.screen.Changes (unmapWork i s).screen := by
  unfold unmapWork
  rw [State.ack_screen]
  split
  · rename_i hlive
    rw [State.updateWork_screen]
    split
    · rw [State.eraseEntry_eq]
      exact .single (.erased i hlive)
    · exact s.freeEntry_redraws i
  · exact .refl

/-- A SETTEXT that passes its checks has a text of at most 16 printable characters (R97). -/
theorem parseSettext_text {p : List Byte} {r : EntryIx × List Byte} (h : parseSettext p = .ok r) :
    r.2.length ≤ 16 ∧ ∀ b ∈ r.2, printable b = true := by
  unfold parseSettext at h
  split at h
  · cases h
  · split at h
    · split at h
      · cases h
        refine ⟨?_, fun b hb => ?_⟩
        · rw [List.length_map, List.length_drop]
          omega
        · obtain ⟨c, -, rfl⟩ := List.mem_map.mp hb
          exact printable_sanitise c
      · cases h
    · cases h

theorem settextWork_redraws {p : List Byte} {r : EntryIx × List Byte} (h : parseSettext p = .ok r) (s : State) :
    s.screen.Changes (settextWork r s).screen := by
  obtain ⟨hlength, htext⟩ := parseSettext_text h
  unfold settextWork
  split
  · rename_i hs
    have hwritten : s.screen.Changes { s.screen with fields := s.fields.modify r.1 (fun f => { f with text := r.2 }) } :=
      .single (.retexted r.1 r.2 hs.2 hlength htext)
    exact hwritten.trans (State.markEntry_redraws { s with fields := _ } r.1)
  · exact .refl

/-! ### Sweeps (R92, R128, R145) -/

/-- The sweep of distinct LIVE entries that appear in a band that owes a clear. -/
theorem State.foldl_sweepEntry_redraws (k : BandIx) (l : List EntryIx) (s : State) (hpending : (s.bands.get k).clearPending = true)
    (hl : ∀ i ∈ l, liveIn (s.bands.get k) (s.fields.get i) = true) :
    s.screen.Changes (l.foldl (State.sweepEntry k) s).screen := by
  induction l generalizing s with
  | nil => exact .refl
  | cons i l ih =>
    have hi := hl i List.mem_cons_self
    have hstep : s.screen.Change (s.sweepEntry k i).screen := by
      rw [State.sweepEntry_eq hi]
      exact .swept k i hi hpending
    refine .head hstep (ih _ ?_ fun j hj => ?_)
    · rw [State.sweepEntry_eq hi, Table.get_modify_self]
      exact hpending
    · have hin := hl j (List.mem_cons_of_mem _ hj)
      rw [State.sweepEntry_eq hi]
      dsimp only
      rw [Table.get_modify_self, Table.get_modify]
      by_cases hji : j = i
      · rw [if_pos hji, ← hji]
        exact hin
      · rw [if_neg hji]
        exact hin

theorem State.sweepBand_redraws {k : BandIx} {s : State} (hpending : (s.bands.get k).clearPending = true) :
    s.screen.Changes (s.sweepBand k).screen :=
  State.foldl_sweepEntry_redraws k _ s hpending fun i hi => by simpa [liveEntries, liveIn] using hi

theorem State.refreshBand_redraws {k : BandIx} {s : State} (hboard : (s.bands.get k).ShowsBoard) :
    s.screen.Changes (s.refreshBand k).screen := by
  have hveil : s.screen.Change (s.modifyBand k (fun b => { b with clearPending := true, curtain := .curtained })).screen :=
    .veiled k hboard
  refine .head hveil (State.sweepBand_redraws ?_)
  rw [State.modifyBand_bands, Table.get_modify_self]

theorem State.refreshBand_shows (k j : BandIx) (s : State) : ((s.refreshBand k).bands.get j).shows = (s.bands.get j).shows := by
  rw [State.refreshBand_eq, State.refreshed, State.swept, Table.get_modify]
  split
  · subst j
    rw [Table.get_modify_self]
  · rename_i hj
    rw [Table.get_modify_ne _ _ hj]

theorem State.foldl_refreshBand_redraws (l : List BandIx) (s : State) (hl : ∀ k ∈ l, (s.bands.get k).ShowsBoard) :
    s.screen.Changes (l.foldl (fun t k => t.refreshBand k) s).screen := by
  induction l generalizing s with
  | nil => exact .refl
  | cons k l ih =>
    refine (State.refreshBand_redraws (hl k List.mem_cons_self)).trans (ih _ fun j hj => ?_)
    obtain ⟨board, hb⟩ := hl j (List.mem_cons_of_mem _ hj)
    exact ⟨board, (s.refreshBand_shows k j).trans hb⟩

theorem FieldGroup.refreshes_showsBoard {g : FieldGroup} {b : Band} (h : g.refreshes b = true) : b.ShowsBoard := by
  cases g with
  | board k => exact ⟨k, of_decide_eq_true h⟩
  | common | all =>
    unfold FieldGroup.refreshes at h
    cases hs : b.shows with
    | board k => exact ⟨k, hs⟩
    | nothing | tape => simp [hs] at h

theorem mflushWork_redraws (g : FieldGroup) (s : State) : s.screen.Changes (mflushWork g s).screen := by
  refine (State.foldl_redraws State.freeEntry_redraws (s.fields.indices g.selects) s).trans
    (State.foldl_refreshBand_redraws (s.bands.indices g.refreshes) _ fun k hk => ?_)
  have hshown := FieldGroup.refreshes_showsBoard (Table.mem_indices.mp hk)
  rw [State.freeEntries_eq, Table.get_ofFn]
  exact hshown

/-- A sweep does not see whether its band owes a clear. -/
theorem State.sweepBand_clearPending (k : BandIx) (s : State) :
    (s.modifyBand k (fun b => { b with clearPending := false })).sweepBand k =
      (s.sweepBand k).modifyBand k (fun b => { b with clearPending := false }) := by
  have hin : liveIn ((s.bands.modify k (fun b => { b with clearPending := false })).get k) = liveIn (s.bands.get k) := by
    rw [Table.get_modify_self]
    rfl
  rw [State.sweepBand_eq, State.sweepBand_eq, State.swept, State.modifyBand_bands, hin]
  apply State.ext_swept (s := s)
  · exact fun _ => rfl
  · rfl
  · intro j
    rw [State.swept]
    by_cases hj : j = k
    · subst j
      simp only [Table.get_modify_self]
      rfl
    · simp only [Table.get_modify_ne _ _ hj]

/-- The clear of a band that owes one: the sweep of its entries, and the clear no longer owed (R128). -/
theorem State.clearBand_redraws {k : BandIx} {s : State} (hpending : (s.bands.get k).clearPending = true) :
    s.screen.Changes (s.clearBand k).screen := by
  unfold State.clearBand
  dsimp only
  split
  · rw [State.sweepBand_clearPending]
    have hswept := State.sweepBand_redraws (s := s.setCells (s.painter.cells.fillRows (s.bands.get k).top (s.bands.get k).height
      (Cell.blank (s.bands.get k).background))) hpending
    exact .tail hswept (.cleared k)
  · exact .single (.cleared k)
  · exact .single (.cleared k)

end Sys2Proof.Machine
end

section
/-! SUPPORT. BAND and SHOW as chains of the elementary changes of the screen's parts. -/

namespace Sys2Proof.Machine

open Sys2Proof

/-! ### BAND (R140, R141) -/

/-- A BAND that passes its checks has its rows on the screen (R140). -/
theorem parseBand_rows {p : List Byte} {r : BandReq} (h : parseBand p = .ok r) : r.top + r.height ≤ 36 := by
  unfold parseBand at h
  split at h
  · cases h
  · split at h
    · rcases ite_eq_iff.mp h with ⟨⟨-, -, hrows⟩, h⟩ | ⟨-, h⟩
      · cases h
        exact hrows
      · cases h
    · cases h

/-- The band's new rows, size and background are written (R141). -/
def BandReq.place (r : BandReq) (b : Band) : Band :=
  { b with top := r.top, height := r.height, size := r.size, background := r.background }

/-- A BAND of height 0 clears the band's marks and retires it. -/
theorem State.freeBand_redraws {r : BandReq} (hheight : r.height = 0) (htop : r.top ≤ 36) (shown : Shows) (s : State) :
    s.screen.Changes ((s.modifyBand r.band r.place).freeBand r.band shown).screen := by
  have hbands : ((s.bands.modify r.band r.place).modify r.band (fun b => { b with count := 0 })).modify r.band
      (fun b => { b with shows := .nothing, curtain := .opened, count := 0, clearPending := false }) =
        (s.bands.modify r.band (fun b => { b with count := 0 })).set r.band
          ⟨0, r.top, r.size, r.background, .nothing, .opened, 0, false⟩ := by
    simp [Table.modify, BandReq.place, hheight]
  rw [State.freeBand, State.leaveTape_screen, State.modifyBand_screen]
  refine .head (.unmarked r.band) (.head (.retired r.band r.top r.size r.background htop fun i => ?_) (Screen.Changes.of_eq ?_))
  · rw [Table.get_map, Table.get_set_self]
  · exact congrArg (fun bands => Screen.mk _ bands _) hbands

/-- What follows from what the band shows, where its height is not 0: a board is refreshed, and any other band is OPEN (R141). -/
theorem State.settleBand_redraws {k : BandIx} {height : Nat} {s : State} (hheight : height ≠ 0) :
    s.screen.Changes (s.settleBand k height (s.bands.get k).shows).screen := by
  unfold State.settleBand
  rw [if_neg hheight]
  split
  · rename_i hs
    exact .single (.opened k (.inl (not_showsBoard_iff.mpr (by rw [State.screen_bands, hs]; nofun))))
  · rename_i board hs
    exact State.refreshBand_redraws ⟨board, hs⟩
  · rename_i hs
    exact .single (.opened k (.inl (not_showsBoard_iff.mpr (by rw [State.screen_bands, hs]; nofun))))

theorem bandWork_redraws {p : List Byte} {r : BandReq} (h : parseBand p = .ok r) (s : State) :
    s.screen.Changes (bandWork r s).screen := by
  have hrows := parseBand_rows h
  unfold bandWork
  split
  · exact .refl
  · rename_i hfree
    split
    · exact .refl
    · rename_i htape
      rw [State.ack_screen, State.updateWork_screen]
      by_cases hheight : r.height = 0
      · unfold State.settleBand
        rw [if_pos hheight]
        exact State.freeBand_redraws hheight (by omega) _ s
      · have hpos := Nat.pos_of_ne_zero hheight
        have hshows : (s.bands.get r.band).shows = ((s.modifyBand r.band r.place).bands.get r.band).shows := by
          rw [State.modifyBand_bands, Table.get_modify_self]
          rfl
        rw [hshows]
        refine .head (.resized r.band r.top r.height r.size r.background hpos hrows ?_ fun hs => ?_)
          (State.settleBand_redraws (s := s.modifyBand r.band r.place) hheight)
        · simpa [hpos] using hfree
        · simpa [hpos, show (s.bands.get r.band).shows = .tape from hs] using htape

/-! ### SHOW (R142 to R144) -/

/-- Clearing the marks for a band leaves what every band shows, and where. -/
theorem State.clearMarksFor_bands (k j : BandIx) (s : State) : (s.clearMarksFor k).bands.get j =
    { s.bands.get j with count := ((s.clearMarksFor k).bands.get j).count } := by
  rw [State.clearMarksFor, Table.get_modify]
  split
  · subst j
    rfl
  · rfl

theorem State.clearMarksFor_unmarked (k : BandIx) (s : State) : (s.clearMarksFor k).screen.Unmarked k := by
  intro i
  rw [State.screen_fields, State.clearMarksFor, Table.get_map, Table.get_set_self]

theorem State.stealFrom_redraws (k : BandIx) (board : BoardIx) (s : State) (j : BandIx) :
    s.screen.Changes (s.stealFrom k (.board board) j).screen := by
  unfold State.stealFrom
  split
  · rename_i hs
    have hclear : s.screen.Change (s.clearMarksFor j).screen := .unmarked j
    refine .head hclear (.single (.hidden j (fun _ hno => ?_) (fun _ => s.clearMarksFor_unmarked j)))
    rw [State.screen_bands, State.clearMarksFor_bands] at hno
    cases hs.2.symm.trans hno
  · exact .refl

/-- A band from which a board is stolen shows NONE, and every other band is left alone. -/
theorem State.stealFrom_bands (k : BandIx) (target : Shows) (s : State) (j m : BandIx) :
    (s.stealFrom k target j).bands.get m = s.bands.get m
      ∨ m = j ∧ j ≠ k ∧ ((s.stealFrom k target j).bands.get m).shows = .nothing := by
  unfold State.stealFrom
  split
  · rename_i hs
    by_cases hm : m = j
    · subst m
      refine .inr ⟨rfl, hs.1, ?_⟩
      rw [State.modifyBand_bands, Table.get_modify_self]
    · refine .inl ?_
      rw [State.modifyBand_bands, Table.get_modify_ne _ _ hm, State.clearMarksFor, Table.get_modify_ne _ _ hm]
  · exact .inl rfl

/-- Stealing leaves the band that steals alone. -/
theorem State.foldl_stealFrom_self (k : BandIx) (target : Shows) (l : List BandIx) (s : State) :
    (l.foldl (State.stealFrom k target) s).bands.get k = s.bands.get k := by
  induction l generalizing s with
  | nil => rfl
  | cons j l ih =>
    rw [List.foldl_cons, ih]
    rcases s.stealFrom_bands k target j k with h | ⟨hj, hne, -⟩
    · exact h
    · exact absurd hj.symm hne

/-- A band that does not show the board does not come to show it by stealing. -/
theorem State.foldl_stealFrom_keeps (k : BandIx) (board : BoardIx) {m : BandIx} (l : List BandIx) (s : State)
    (h : (s.bands.get m).shows ≠ .board board) :
    ((l.foldl (State.stealFrom k (.board board)) s).bands.get m).shows ≠ .board board := by
  induction l generalizing s with
  | nil => exact h
  | cons j l ih =>
    refine ih _ ?_
    rcases s.stealFrom_bands k (.board board) j m with he | ⟨-, -, he⟩
    · rwa [he]
    · rw [he]
      nofun

/-- After stealing, no other band visited shows the board (R143). -/
theorem State.foldl_stealFrom_shows (k : BandIx) (board : BoardIx) {m : BandIx} (hmk : m ≠ k) (l : List BandIx) (s : State)
    (hm : m ∈ l) : ((l.foldl (State.stealFrom k (.board board)) s).bands.get m).shows ≠ .board board := by
  induction l generalizing s with
  | nil => cases hm
  | cons j l ih =>
    rcases List.mem_cons.mp hm with rfl | hm
    · refine State.foldl_stealFrom_keeps k board l _ ?_
      unfold State.stealFrom
      split
      · rw [State.modifyBand_bands, Table.get_modify_self]
        nofun
      · rename_i hs
        exact fun he => hs ⟨hmk, he⟩
    · exact ih _ hm

theorem State.stealBoard_redraws (k : BandIx) (target : Shows) (s : State) :
    s.screen.Changes (s.stealBoard k target).screen := by
  cases target with
  | board board => exact State.foldl_redraws (State.stealFrom_redraws k board) allBands s
  | nothing | tape => exact .refl

theorem State.stealBoard_self (k : BandIx) (target : Shows) (s : State) :
    (s.stealBoard k target).bands.get k = s.bands.get k := by
  cases target with
  | board board => exact State.foldl_stealFrom_self k (.board board) allBands s
  | nothing | tape => rfl

theorem State.leaveBoard_redraws (k : BandIx) (s : State) : s.screen.Changes (s.leaveBoard k).screen := by
  unfold State.leaveBoard
  split
  · exact .single (.unmarked k)
  · exact .refl
  · exact .refl

/-- Leaving a board changes counts only. -/
theorem State.leaveBoard_bands (k j : BandIx) (s : State) : (s.leaveBoard k).bands.get j =
    { s.bands.get j with count := ((s.leaveBoard k).bands.get j).count } := by
  unfold State.leaveBoard
  split
  · exact s.clearMarksFor_bands k j
  · rfl
  · rfl

/-- A band that has left its board has no marks. -/
theorem State.leaveBoard_unmarked (k : BandIx) (s : State) (h : ((s.leaveBoard k).bands.get k).ShowsBoard) :
    (s.leaveBoard k).screen.Unmarked k := by
  obtain ⟨board, hb⟩ := h
  rw [State.leaveBoard_bands] at hb
  have hleave : s.leaveBoard k = s.clearMarksFor k := by
    unfold State.leaveBoard
    rw [show (s.bands.get k).shows = .board board from hb]
  rw [hleave]
  exact s.clearMarksFor_unmarked k

/-- A used band takes its target, which no other band shows and which it can show, once its marks are cleared (R144). -/
theorem State.takeTarget_redraws {k : BandIx} {target : Shows} {s : State} (hused : (s.bands.get k).height ≠ 0)
    (hothers : target ≠ .nothing → ∀ j, j ≠ k → (s.bands.get j).shows ≠ target)
    (hsize : target = .tape → doubleWidth (s.bands.get k).size = false)
    (hclear : (s.bands.get k).ShowsBoard → s.screen.Unmarked k) : s.screen.Changes (s.takeTarget k target).screen := by
  cases target with
  | nothing => exact .single (.hidden k (fun hh => absurd hh hused) hclear)
  | tape =>
    unfold State.takeTarget
    dsimp only
    split
    · exact .refl
    · exact .single (.taped k hused (hsize rfl) (hothers nofun) hclear)
  | board board =>
    have hboarded := Screen.Change.boarded (m := s.screen) k board hused (hothers nofun) hclear
    have hbands : (s.bands.modify k (fun b => { b with shows := .board board })).modify k
        (fun b => { b with clearPending := true, curtain := .curtained }) =
          s.bands.modify k (fun b => { b with shows := .board board, clearPending := true, curtain := .curtained }) := by
      simp [Table.modify]
    have hsweep := State.sweepBand_redraws (k := k) (s := s.modifyBand k
      (fun b => { b with shows := .board board, clearPending := true, curtain := .curtained }))
      (by rw [State.modifyBand_bands, Table.get_modify_self])
    have htake : (s.takeTarget k (.board board)).screen = ((s.modifyBand k
        (fun b => { b with shows := .board board, clearPending := true, curtain := .curtained })).sweepBand k).screen := by
      rw [State.takeTarget, State.updateWork_screen, State.refreshBand]
      simp only [State.modifyBand, hbands]
    rw [htake]
    exact .head hboarded hsweep

/-- A SHOW that is not refused names a used band, and TAPE only where no other band shows it and the band is not of double width
(R142). -/
theorem showRefused_eq_false {bands : Table 4 Band} {k : BandIx} {target : Shows} (h : showRefused bands k target = false) :
    (bands.get k).height ≠ 0 ∧ (target = .tape → (∀ j, j ≠ k → (bands.get j).shows ≠ .tape)
      ∧ doubleWidth (bands.get k).size = false) := by
  rw [showRefused, Bool.or_eq_false_iff, decide_eq_false_iff_not] at h
  refine ⟨h.1, fun htarget => ?_⟩
  obtain ⟨hothers, hsize⟩ : allBands.any (fun j => decide (j ≠ k) && decide ((bands.get j).shows = .tape)) = false
      ∧ doubleWidth (bands.get k).size = false := by
    simpa only [htarget, decide_true, Bool.true_and, Bool.or_eq_false_iff] using h.2
  refine ⟨fun j hj hs => ?_, hsize⟩
  have hno := List.any_eq_false.mp hothers j (mem_allBands j)
  simp [hj, hs] at hno

theorem showWork_redraws (r : BandIx × Shows) (s : State) : s.screen.Changes (showWork r s).screen := by
  obtain ⟨k, target⟩ := r
  unfold showWork
  split
  · exact .refl
  · rename_i hr
    obtain ⟨hused, htape⟩ := showRefused_eq_false (Bool.not_eq_true _ ▸ hr)
    have hself : ((s.stealBoard k target).leaveBoard k).bands.get k =
        { s.bands.get k with count := (((s.stealBoard k target).leaveBoard k).bands.get k).count } := by
      rw [State.leaveBoard_bands, State.stealBoard_self]
    have hothers : target ≠ .nothing → ∀ j, j ≠ k → (((s.stealBoard k target).leaveBoard k).bands.get j).shows ≠ target := by
      intro hne j hj
      rw [State.leaveBoard_bands]
      cases target with
      | nothing => exact absurd rfl hne
      | board board => exact State.foldl_stealFrom_shows k board hj allBands s (mem_allBands j)
      | tape => exact (htape rfl).1 j hj
    have hleft := (s.stealBoard_redraws k target).trans ((s.stealBoard k target).leaveBoard_redraws k)
    have htaken : ∀ u : State, u.screen = ((s.stealBoard k target).leaveBoard k).screen →
        s.screen.Changes (u.takeTarget k target).screen := by
      intro u hu
      have hbands : u.bands = ((s.stealBoard k target).leaveBoard k).bands := congrArg Screen.bands hu
      rw [← hu] at hleft
      refine hleft.trans (State.takeTarget_redraws ?_ ?_ ?_ ?_)
      · rw [hbands, hself]
        exact hused
      · rw [hbands]
        exact hothers
      · rw [hbands, hself]
        exact fun ht => (htape ht).2
      · rw [hbands, hu]
        exact State.leaveBoard_unmarked k _
    dsimp only
    rw [State.ack_screen]
    split
    · exact htaken _ rfl
    · exact htaken _ (State.leaveTape_screen _ _)

end Sys2Proof.Machine
end

section
/-! SUPPORT. The Painter's steps as chains of the elementary changes of the screen's parts; every command makes such a chain, and so
every step keeps the laws of the curtains, the bands and the layout. -/

namespace Sys2Proof.Machine

open Sys2Proof

/-! ### The Painter (R128 to R132) -/

/-- Two screens that agree at every index are equal. -/
theorem Screen.ext_get {m n : Screen} (hf : ∀ i, m.fields.get i = n.fields.get i) (hb : ∀ k, m.bands.get k = n.bands.get k)
    (hd : m.dirty = n.dirty) : m = n := by
  obtain ⟨fields, bands, dirty⟩ := m
  rw [Screen.mk.injEq]
  exact ⟨Table.ext_get hf, Table.ext_get hb, hd⟩

/-- The writing of an entry into a band clears its mark for it, counted down, if it appears there (R130). -/
theorem State.writeInto_screen (i : EntryIx) (chars : List (Byte × AttrIx)) (s : State) (k : BandIx) :
    (s.writeInto i chars k).screen = { s.screen with
      fields := s.fields.modify i (fun f => { f with
        unpainted := f.unpainted.set k (f.unpainted.get k && !appearsIn f (s.bands.get k)) })
      bands := s.bands.modify k (fun b => { b with
        count := b.count - if appearsIn (s.fields.get i) b && (s.fields.get i).unpainted.get k then 1 else 0 }) } := by
  unfold State.writeInto
  dsimp only
  split
  · rename_i ha
    rw [State.clearUnpainted_eq]
    apply Screen.ext_get
    · intro j
      simp only [State.screen_fields, State.setCells_fields, Table.get_modify, ha, Bool.not_true, Bool.and_false]
    · intro j
      simp only [State.screen_bands, State.setCells_fields, State.setCells_bands, Table.get_modify, ha, Bool.true_and]
      split
      · by_cases hu : (s.fields.get i).unpainted.get k = true
        · simp only [if_pos hu]
          exact if_pos hu
        · simp only [if_neg hu, Nat.sub_zero]
          exact if_neg hu
      · rfl
    · rfl
  · rename_i ha
    rw [Bool.not_eq_true] at ha
    apply Screen.ext_get
    · intro j
      rw [Table.get_modify]
      split
      · subst j
        rw [ha, Bool.not_false, Bool.and_true, Table.set_get]
        rfl
      · rfl
    · intro j
      rw [Table.get_modify]
      split
      · subst j
        rw [ha]
        rfl
      · rfl
    · rfl

/-- The writing of an entry into distinct bands. -/
theorem State.foldl_writeInto_screen (i : EntryIx) (chars : List (Byte × AttrIx)) (l : List BandIx) (s : State) (h : l.Nodup) :
    (l.foldl (State.writeInto i chars) s).screen = { s.screen with
      fields := s.fields.modify i (fun f => { f with
        unpainted := Table.ofFn (fun k => f.unpainted.get k && !(decide (k ∈ l) && appearsIn f (s.bands.get k))) })
      bands := lowerCounts (fun k =>
        decide (k ∈ l) && (appearsIn (s.fields.get i) (s.bands.get k) && (s.fields.get i).unpainted.get k)) s.bands } := by
  induction l generalizing s with
  | nil =>
    apply Screen.ext_get
    · intro j
      rw [Table.get_modify]
      split
      · subst j
        simp
      · rfl
    · intro k
      rw [lowerCounts_get]
      simp
    · rfl
  | cons k l ih =>
    obtain ⟨hk, hl⟩ := List.nodup_cons.mp h
    have hstep := s.writeInto_screen i chars k
    have hfields := congrArg Screen.fields hstep
    have hbands := congrArg Screen.bands hstep
    simp only [State.screen_fields, State.screen_bands] at hfields hbands
    rw [List.foldl_cons, ih _ hl]
    apply Screen.ext_get
    · intro j
      simp only [hfields, hbands, Table.get_modify]
      split
      · simp only [↓reduceIte]
        congr 1
        apply Table.ext_get
        intro m
        simp only [Table.get_ofFn, Table.get_set, List.mem_cons]
        by_cases hm : m = k
        · subst hm; simp [hk]
        · simp only [hm, false_or, ↓reduceIte]
          rfl
      · rfl
    · intro m
      simp only [lowerCounts_get, hfields, hbands, Table.get_modify, List.mem_cons, ↓reduceIte]
      by_cases hm : m = k
      · subst hm; simp [hk]
      · simp only [hm, false_or, ↓reduceIte, Table.get_set_ne _ _ hm]
        rfl
    · have hdirty := congrArg Screen.dirty hstep
      exact hdirty

/-- The rendering of an entry clears its marks for the bands it appears in (R130). -/
theorem State.renderEntry_screen (i : EntryIx) (s : State) : (s.renderEntry i).screen = { s.screen with
      fields := s.fields.modify i (fun f => { f with
        unpainted := Table.ofFn (fun k => f.unpainted.get k && !appearsIn f (s.bands.get k)) })
      bands := lowerCounts (fun k => appearsIn (s.fields.get i) (s.bands.get k) && (s.fields.get i).unpainted.get k) s.bands } := by
  rw [State.renderEntry, State.foldl_writeInto_screen _ _ _ _ (by decide)]
  simp only [mem_allBands, decide_true, Bool.true_and]

/-- The rendering of an entry that appears in no band changes nothing on the screen. -/
theorem State.renderEntry_screen_of_absent {i : EntryIx} {s : State} (h : appears s.bands (s.fields.get i) = false) :
    (s.renderEntry i).screen = s.screen := by
  have habsent : ∀ k, appearsIn (s.fields.get i) (s.bands.get k) = false := Table.any_eq_false.mp h
  rw [State.renderEntry_screen]
  apply Screen.ext_get
  · intro j
    rw [Table.get_modify]
    split
    · subst j
      simp only [habsent, Bool.not_false, Bool.and_true, Table.ofFn_get]
      rfl
    · rfl
  · intro k
    simp only [lowerCounts_get, habsent, Bool.false_and]
    rfl
  · rfl

theorem appears_of_free {bands : Table 4 Band} {f : Field} (h : f.state = .free) : appears bands f = false :=
  Table.any_eq_false.mpr fun _ => by rw [appearsIn, h]

/-- The erasing of an entry frees it, and touches nothing else on the screen but cells. -/
theorem State.eraseCells_screen (i : EntryIx) (s : State) : (s.eraseCells i).screen = (s.makeFree i).screen := by
  have hwalk := State.foldl_screen (State.eraseFrom_screen (s.fields.get i)) allBands s
  have hfields := congrArg Screen.fields hwalk
  have hbands := congrArg Screen.bands hwalk
  have hdirty := congrArg Screen.dirty hwalk
  simp only [State.screen_fields, State.screen_bands, State.screen_dirty] at hfields hbands hdirty
  simp only [State.screen, State.eraseCells, State.makeFree, hfields, hbands, hdirty]

/-- An entry that is not ERASING leaves the Dirty List and is rendered (R129, R130). -/
theorem State.rendered_redraws {i : EntryIx} {rest : List EntryIx} {s : State} (hhead : s.painter.dirty = i :: rest)
    (hstate : (s.fields.get i).state ≠ .erasing) : s.screen.Changes ((s.unqueue i rest).renderEntry i).screen := by
  have hchange := Screen.Change.rendered (m := s.screen) i rest hhead hstate
  rw [State.renderEntry_screen, State.unqueue, Table.modify, Table.modify, Table.set_set, Table.get_set_self]
  exact .single hchange

/-- An ERASING entry leaves the Dirty List and is FREE (R129, R131). -/
theorem State.released_redraws {i : EntryIx} {rest : List EntryIx} {s : State} (hhead : s.painter.dirty = i :: rest)
    (hstate : (s.fields.get i).state = .erasing) : s.screen.Changes ((s.unqueue i rest).makeFree i).screen := by
  have hchange := Screen.Change.released (m := s.screen) i rest hhead hstate
  rw [State.makeFree, State.unqueue, Table.modify, Table.set_set]
  exact .single hchange

/-- The taking of the head of the Dirty List renders its entry or frees it (R129). -/
theorem State.dealWith_redraws {i : EntryIx} {rest : List EntryIx} {s : State} (hhead : s.painter.dirty = i :: rest) :
    s.screen.Changes ((s.unqueue i rest).dealWith i).1.screen := by
  have hstate : ((s.unqueue i rest).fields.get i).state = (s.fields.get i).state := by
    rw [State.unqueue, Table.get_modify_self]
  unfold State.dealWith
  dsimp only
  split
  · rename_i hs _
    exact State.rendered_redraws hhead (by rw [← hstate, hs]; nofun)
  · rename_i hs ha
    rw [← State.renderEntry_screen_of_absent ha]
    exact State.rendered_redraws hhead (by rw [← hstate, hs]; nofun)
  · rename_i hs _
    rw [State.eraseCells_screen]
    exact State.released_redraws hhead (hstate.symm.trans hs)
  · rename_i hs _
    exact State.released_redraws hhead (hstate.symm.trans hs)
  · rename_i hs
    rw [← State.renderEntry_screen_of_absent (appears_of_free hs)]
    exact State.rendered_redraws hhead (by rw [← hstate, hs]; nofun)

theorem State.takeOne_redraws (budget counted : Nat) (s : State) : s.screen.Changes (s.takeOne budget counted).screen := by
  unfold State.takeOne State.takeEntry
  rw [State.updateWork_screen]
  split
  · exact .refl
  · rename_i i rest hhead
    split
    · exact .refl
    · exact State.dealWith_redraws hhead

theorem execTaking_redraws {s t : State} (h : execTaking s = .next t) : s.screen.Changes t.screen := by
  unfold execTaking at h
  split at h
  · split at h
    · cases h
      exact s.takeOne_redraws _ _
    · cases h
      exact .refl
  · cases h
    exact s.takeOne_redraws _ _
  · cases h
    exact .refl
  · cases h
    exact .refl

theorem State.clearStep_redraws (k : BandIx) (s : State) : s.screen.Changes (s.clearStep k).screen := by
  unfold State.clearStep
  split
  · split
    · rename_i hs
      exact State.clearBand_redraws hs.2
    · exact .refl
  · exact .refl
  · exact .refl
  · exact .refl

theorem State.releaseStep_redraws (k : BandIx) (s : State) : s.screen.Changes (s.releaseStep k).screen := by
  unfold State.releaseStep
  split
  · split
    · rename_i hs
      exact .single (.opened k (.inr hs.2))
    · exact .refl
  · exact .refl

/-! ### The Link Interface -/

theorem execUnknownKind_redraws {s t : State} (h : execUnknownKind s = .next t) : s.screen.Changes t.screen := by
  unfold execUnknownKind at h
  split at h
  · split at h
    · cases h
      exact s.ready_redraws
    · cases h
      exact s.ready_redraws
  · cases h
    exact s.ready_redraws

theorem continueStatus_screen (n done : Nat) (r : StatusReply) (s : State) : (continueStatus n done r s).screen = s.screen := by
  unfold continueStatus
  dsimp only
  split <;> rfl

theorem execStatus_redraws {n : Nat} {s t : State} (h : execStatus n s = .next t) : s.screen.Changes t.screen := by
  unfold execStatus at h
  split at h
  · cases h
    rw [continueStatus_screen]
    exact s.settled_redraws
  · exact request_keeps_screen (fun _ u => continueStatus_screen n 0 _ u) h
  · exact request_keeps_screen (fun _ u => continueStatus_screen n 0 _ u) h
  · cases h
    exact s.settled_redraws

theorem execResetNReleased_screen {rate1 rate0 : Bool} {s t : State} (h : execResetNReleased rate1 rate0 s = .next t) :
    t.screen = s.screen := by
  unfold execResetNReleased at h
  split at h <;> cases h <;> rfl

theorem execInitialisationEnd_screen {s t : State} (h : execInitialisationEnd s = .next t) : t.screen = s.screen := by
  unfold execInitialisationEnd at h
  split at h <;> cases h <;> rfl

theorem execRxdCharacter_screen {byte : Byte} {stopHigh : Bool} {s t : State} (h : execRxdCharacter byte stopHigh s = .next t) :
    t.screen = s.screen := by
  unfold execRxdCharacter at h
  split at h <;> cases h <;> rfl

theorem execFrameGapTimeout_screen {s t : State} (h : execFrameGapTimeout s = .next t) : t.screen = s.screen := by
  unfold execFrameGapTimeout at h
  split at h <;> cases h <;> rfl

theorem execBadFrameAdmission_screen {s t : State} (h : execBadFrameAdmission s = .next t) : t.screen = s.screen := by
  unfold execBadFrameAdmission at h
  split at h <;> cases h <;> simp

theorem execOverrunAdmission_screen {s t : State} (h : execOverrunAdmission s = .next t) : t.screen = s.screen := by
  unfold execOverrunAdmission at h
  split at h <;> cases h <;> simp

theorem execFeedNotice_screen {s t : State} (h : execFeedNotice s = .next t) : t.screen = s.screen := by
  unfold execFeedNotice at h
  split at h <;> cases h <;> simp

theorem execMissNotice_screen {s t : State} (h : execMissNotice s = .next t) : t.screen = s.screen := by
  unfold execMissNotice at h
  split at h
  · cases h
    rw [State.admissionMade_screen]
    rfl
  · cases h
    rfl

/-! ### Every command -/

theorem State.resetBlocks_redraws (cause : ResetCause) (phase : Phase) (s : State) :
    s.screen.Changes (s.resetBlocks cause phase).screen := .single .reset

/-- Every command makes a chain of the elementary changes of the screen's parts. -/
theorem exec_redraws {c : Instr} {s t : State} (h : exec c s = .next t) : s.screen.Changes t.screen := by
  cases c with
  | resetNAsserted => cases h; exact s.resetBlocks_redraws .pin .held
  | resetNReleased rate1 rate0 => exact .of_eq (execResetNReleased_screen h)
  | initialisationEnd => exact .of_eq (execInitialisationEnd_screen h)
  | rxdCharacter byte stopHigh => exact .of_eq (execRxdCharacter_screen h)
  | frameGapTimeout => exact .of_eq (execFrameGapTimeout_screen h)
  | recordSent => cases h; exact .refl
  | badFrameAdmission => exact .of_eq (execBadFrameAdmission_screen h)
  | overrunAdmission => exact .of_eq (execOverrunAdmission_screen h)
  | feedNotice => exact .of_eq (execFeedNotice_screen h)
  | missNotice => exact .of_eq (execMissNotice_screen h)
  | unknownKind => exact execUnknownKind_redraws h
  | reset => exact request_redraws (fun _ _ u _ => u.resetBlocks_redraws .message .initialising) h
  | status n => exact execStatus_redraws h
  | define => exact request_redraws (fun _ r u _ => defineWork_redraws r u) h
  | clear => exact request_redraws (fun _ slot u _ => clearWork_redraws slot u) h
  | halt => exact request_redraws (fun _ slot u _ => tradingWork_redraws _ _ slot u) h
  | resume => exact request_redraws (fun _ slot u _ => tradingWork_redraws _ _ slot u) h
  | setref => exact request_redraws (fun _ r u _ => setrefWork_redraws r u) h
  | openDay => exact request_redraws (fun _ _ u _ => openDayWork_redraws u) h
  | install => exact request_keeps_screen installWork_screen h
  | remove => exact request_keeps_screen removeWork_screen h
  | tick => exact request_redraws (fun _ r u _ => tickWork_redraws r u) h
  | release n => exact execRelease_redraws h
  | heartbeat => exact request_redraws (fun _ _ u _ => by rw [State.ack_screen]; exact u.reloadFeed_redraws) h
  | watch => exact request_redraws (fun _ period u _ => watchWork_redraws period u) h
  | feedWatchExpiry => cases h; exact s.settled_redraws.trans s.settled.expire_redraws
  | heatScanStep => cases h; exact s.settled_redraws.trans s.settled.scanStep_redraws
  | map => exact request_redraws (fun _ _ u hp => mapWork_redraws hp u) h
  | unmap => exact request_redraws (fun _ i u _ => unmapWork_redraws i u) h
  | mflush => exact request_redraws (fun _ g u _ => mflushWork_redraws g u) h
  | settext => exact request_redraws (fun _ _ u hp => settextWork_redraws hp u) h
  | setpal => exact request_redraws (fun _ r u _ => setpalWork_redraws r u) h
  | band => exact request_redraws (fun _ _ u hp => bandWork_redraws hp u) h
  | showBand => exact request_redraws (fun _ r u _ => showWork_redraws r u) h
  | tapetext => exact request_keeps_screen tapetextWork_screen h
  | query | dflush | dprobe | mpurge | discard | mprobe | mfind | setattr | heatcfg | blink | paint | tapespeed =>
    exact request_keeps_screen (by exact fun _ _ => rfl) h
  | frameStart => cases h; rw [State.startFrame_screen]; exact s.settled_redraws
  | bandClear k => cases h; exact s.settled_redraws.trans (s.settled.clearStep_redraws k)
  | taking => exact execTaking_redraws h
  | curtainRelease k => cases h; exact s.settled_redraws.trans (s.settled.releaseStep_redraws k)
  | rasterReading => cases h; rw [State.readFrame_screen]; exact s.settled_redraws

/-- So does every step: with no command waiting there is none. -/
theorem step_redraws {s t : State} (h : step s = .next t) : s.screen.Changes t.screen := by
  unfold step at h
  split at h
  · cases h
    exact .refl
  · have hc := exec_redraws h
    exact hc

end Sys2Proof.Machine

open Sys2Proof Sys2Proof.Machine

/-- Settles O55: every step makes a chain of elementary changes, and each of them keeps the law of the curtains. -/
theorem curtainsStayLawful : Obligations.CurtainsStayLawful := fun _ _ hs h =>
  State.curtainsLawful_iff.mpr
    ((step_redraws h).keeps (fun _ _ hc => hc.keeps_curtainsLawful) (State.curtainsLawful_iff.mp hs))

/-- Settles O56: every step makes a chain of elementary changes, and each of them keeps the laws of the bands and of the layout. -/
theorem layoutStaysLawful : Obligations.LayoutStaysLawful := fun _ _ h =>
  ⟨fun hs => State.bandsLawful_iff.mpr
      ((step_redraws h).keeps (fun _ _ hc => hc.keeps_bandsLawful) (State.bandsLawful_iff.mp hs)),
    fun hs => State.layoutLawful_iff.mpr
      ((step_redraws h).keeps (fun _ _ hc => hc.keeps_layoutLawful) (State.layoutLawful_iff.mp hs))⟩
end

section
/-! SUPPORT. The settings of the Colour Unit, the classes and attributes of a field, and the reset of every block by the pin. -/

namespace Sys2Proof.Machine

open Sys2Proof

/-! ### SETPAL (R116, R117) -/

/-- What a change hands over is still to come where a taking may fall before it. -/
theorem State.handOver_of_mayTake {s : State} (h : s.mayTake = true) (m : Marks) : s.handOver m = { s with owed := some m } :=
  if_pos h

/-- Where none may, it is carried out at once. -/
theorem State.handOver_of_not_mayTake {s : State} (h : s.mayTake = false) (m : Marks) : s.handOver m = s.carryOut m :=
  if_neg (Bool.eq_false_iff.mp h)

/-! ### Classes (R111 to R113) -/

/-- The class of a LAST field: NEUTRAL where nothing moves it, else by direction and heat (R112). -/
theorem lastClass_eq (steady : Bool) (q : Quote) :
    lastClass steady q =
      if steady = true ∨ q.heat = 0 ∨ q.direction = .none then .neutral
      else if q.direction = .up then (if q.heat ≤ 5 then .up1 else if q.heat ≤ 11 then .up2 else .up3)
      else (if q.heat ≤ 5 then .dn1 else if q.heat ≤ 11 then .dn2 else .dn3) := by
  cases steady with
  | true => simp [lastClass]
  | false =>
    by_cases h0 : q.heat = 0
    · simp [lastClass, heatBand, h0]
    by_cases hwarm : q.heat ≤ 5
    · cases hd : q.direction <;> simp [lastClass, heatBand, h0, hwarm, hd]
    by_cases hhot : q.heat ≤ 11
    · cases hd : q.direction <;> simp [lastClass, heatBand, h0, hwarm, hhot, hd]
    · cases hd : q.direction <;> simp [lastClass, heatBand, h0, hwarm, hhot, hd]

/-- The class of a NET or PCT field by its render outcome (R113). -/
theorem changeClass_eq (outcome : RenderOutcome) :
    changeClass outcome =
      if outcome = .positive then .pos else if outcome = .negative then .neg
      else if outcome = .zero then .unch else .neutral := by
  cases outcome <;> rfl

theorem FeedWatch.isStale_iff (w : FeedWatch) : w.isStale = true ↔ ∃ period, w = .stale period := by
  cases w <;> simp [FeedWatch.isStale]

/-! ### An entry that reads no record (R79) -/

theorem State.recordOf_of_slot {f : Field} {slot : Slot} (h : f.slot = some slot) (s : State) :
    s.recordOf f = s.records.get slot := by rw [State.recordOf, h]

/-- The class and the text of an entry are decided from the record of its slot; for TEXT any record gives the same. -/
theorem State.decided_from_record {s : State} {f : Field} {q : Quote} (hslot : ∀ slot, f.slot = some slot → q = s.records.get slot)
    (htext : f.slot = none → f.item = .text) :
    s.rendering f = render f.item q f.text f.width
      ∧ s.fieldClass f = classOf f.item f.steady q (render f.item q f.text f.width).outcome s.intake.watch.isStale := by
  cases h : f.slot with
  | some slot =>
    obtain rfl : q = s.recordOf f := (hslot slot h).trans (State.recordOf_of_slot h s).symm
    exact ⟨rfl, rfl⟩
  | none =>
    rw [State.fieldClass, State.rendering, htext h]
    exact ⟨rfl, rfl⟩

end Sys2Proof.Machine

open Sys2Proof Sys2Proof.Machine

/-- Settles O32: each of the three requests is read as its fields; a SETPAL hands its sweep over after the write. -/
theorem colourSettings : Obligations.ColourSettings := by
  refine ⟨fun s flash enabled period limit hflash h => ?_, fun s u set cls attr h hu => ?_, fun s i a h => ?_⟩
  · exact request_ok h (parse_heatcfg flash enabled period limit hflash)
  · have hexec := request_ok (work := setpalWork) h (parse_setpal set cls attr)
    have hwork : setpalWork (set, cls, attr) s.takeHead = u.takeHead.handOver (.sweep set attr) := by subst hu; rfl
    have hmay : u.takeHead.mayTake = s.mayTake := by subst hu; rfl
    have hmarked : u.takeHead.newlyMarked (inPalette set) = s.newlyMarked (fun f => decide (f.palette = set)) := by
      subst hu; rfl
    rw [hwork] at hexec
    refine ⟨fun hm => hexec.trans (congrArg _ ?_), fun hm => hexec.trans (congrArg _ ?_)⟩
    · rw [State.handOver_of_not_mayTake (hmay.trans hm), State.carryOut_sweep, hmarked]
      rfl
    · exact State.handOver_of_mayTake (hmay.trans hm) _
  · exact request_ok h (parse_setattr i a)

/-- Settles O6: the pin's reset, its release where it was held, and the end of an initialisation under way. -/
theorem resetPinAndInitialisation : Obligations.ResetPinAndInitialisation :=
  ⟨fun _ => rfl, fun _ _ _ hheld => if_pos hheld, fun _ hinit => if_pos hinit⟩

/-- Settles O33: the seven tests item by item, the classes by number, and an entry's class and characters from the record it reads. -/
theorem colourClassDecided : Obligations.ColourClassDecided := by
  refine ⟨fun item steady q outcome stale => ?_, fun c set cls number h => ?_, fun s f q stale fitted hslot htext hstale hfitted => ?_⟩
  · cases item with
    | text | sym => rfl
    | last => simp [classOf, lastClass_eq]
    | net | pct => simp [classOf, changeClass_eq]
    | bid | ask | high | low | vol => simp [classOf]
  · have hnumber : number = cls.index := by
      revert h; cases cls <;> simp [Class.index]
    rw [hnumber]
    rfl
  · obtain ⟨hrendering, hclass⟩ := State.decided_from_record hslot htext
    have hfeed : stale = s.intake.watch.isStale := Bool.eq_iff_iff.mpr (hstale.trans (FeedWatch.isStale_iff _).symm)
    subst hfitted hfeed
    refine ⟨hclass, ?_⟩
    rw [State.fieldChars, hrendering]
    rfl
end

section
/-! SUPPORT. The frame start, the Raster's reading, and the video outputs of every line and dot. -/

namespace Sys2Proof.Machine

open Sys2Proof

/-! ### The frame start and the reading (R120, R127, R134, R147, R151) -/

/-- With no marks still to come, a FRAME_START is a frame start of the state as it stands. -/
theorem exec_frameStart {s : State} (h : s.owed = none) : exec .frameStart s = .next s.startFrame :=
  congrArg (fun t : State => Host.Outcome.next t.startFrame) (State.settled_of_none h)

/-- With no marks still to come, a RASTER_READING is a reading of the state as it stands. -/
theorem exec_rasterReading {s : State} (h : s.owed = none) : exec .rasterReading s = .next s.readFrame :=
  congrArg (fun t : State => Host.Outcome.next t.readFrame) (State.settled_of_none h)

/-- The fill that is owed is made once, and none is owed after it (R134). -/
theorem Painter.resetFill_eq (p : Painter) :
    p.resetFill = { p with
      cells := if p.fillOwed then Table.replicate 36 (Table.replicate 96 ⟨0x20, 0, .whole⟩) else p.cells
      fillOwed := false } := by
  obtain ⟨dirty, budget, work, cells, owed⟩ := p
  cases owed <;> rfl

/-- The phase and the count after a frame start (R151). -/
theorem Raster.advanceBlink_eq {r : Raster} {on : Bool} {count : Nat}
    (h : (on, count) = if r.blinkCount + 1 < r.blinkPeriod then (r.blinkOn, r.blinkCount + 1) else (!r.blinkOn, 0)) :
    r.advanceBlink = { r with blinkOn := on, blinkCount := count } := by
  unfold Raster.advanceBlink
  split at h <;> cases h
  · rw [if_pos ‹_›]
  · rw [if_neg ‹_›]

/-! ### The video lines (R118, R153) -/

@[simp] theorem videoOut_hsync (s : State) (line dot : Nat) : (videoOut s line dot).hsync = hsyncLevel dot := by
  unfold videoOut
  split <;> rfl

@[simp] theorem videoOut_vsync (s : State) (line dot : Nat) : (videoOut s line dot).vsync = vsyncLevel line := by
  unfold videoOut
  split <;> rfl

theorem videoOut_of_blanking {line dot : Nat} (h : line ≤ 48 ∨ 960 ≤ dot) (s : State) :
    videoOut s line dot = ⟨false, false, false, false, hsyncLevel dot, vsyncLevel line⟩ := by
  refine if_neg ?_
  rw [activeDot, decide_eq_true_eq]
  omega

/-- A line and a dot of the active picture belong to one row and column, at one place of a cell. -/
theorem videoOut_of_active (s : State) (row : Fin 36) (column : Fin 96) {x y : Nat} (hx : x < 10) (hy : y < 16) :
    videoOut s (49 + 16 * row.val + y) (10 * column.val + x) =
      colourLines (frameColour s row column x y) (hsyncLevel (10 * column.val + x)) (vsyncLevel (49 + 16 * row.val + y)) := by
  have hactive : activeDot (49 + 16 * row.val + y) (10 * column.val + x) = true := by
    rw [activeDot, decide_eq_true_eq]
    omega
  have hrow : Fin.ofNat 36 ((49 + 16 * row.val + y - 49) / 16) = row := by
    apply Fin.ext
    rw [Fin.val_ofNat]
    omega
  have hcolumn : Fin.ofNat 96 ((10 * column.val + x) / 10) = column := by
    apply Fin.ext
    rw [Fin.val_ofNat]
    omega
  rw [videoOut, if_pos hactive, hrow, hcolumn, show (10 * column.val + x) % 10 = x by omega,
    show (49 + 16 * row.val + y - 49) % 16 = y by omega]

/-- The four colour lines carry the colour's number: 8 for intensity, 4 for red, 2 for green, 1 for blue (R118). -/
theorem colourLines_weights (c : Colour) (hsync vsync : Bool) :
    8 * flagBit (colourLines c hsync vsync).intensity + 4 * flagBit (colourLines c hsync vsync).red
      + 2 * flagBit (colourLines c hsync vsync).green + flagBit (colourLines c hsync vsync).blue = c.val := by
  fin_cases c <;> rfl

/-! ### What draws a row (R148, R153, R154) -/

theorem frameColour_of_reading {s : State} {r : Reading} (h : s.raster.reading = some r) (row : Fin 36) (column : Fin 96)
    (x y : Nat) : frameColour s row column x y = pictureColour s r row column x y := by
  rw [frameColour, h]

/-- A row of no used band. -/
theorem pictureColour_of_outside {r : Reading} {row : Fin 36} (h : ∀ k, holdsRow row.val (r.bands.get k) = false) (s : State)
    (column : Fin 96) (x y : Nat) : pictureColour s r row column x y = (s.raster.takenAttrs.get 0).background := by
  simp only [pictureColour, Table.lowest_eq_none.mpr h]

/-- The band that alone holds a row is the one that draws it. -/
theorem lowest_of_only {bands : Table 4 Band} {row : Nat} {k : BandIx} (hk : holdsRow row (bands.get k) = true)
    (honly : ∀ j, j ≠ k → holdsRow row (bands.get j) = false) : bands.lowest (holdsRow row) = some k :=
  Table.lowest_eq_some.mpr ⟨hk, fun j hj => honly j (ne_of_lt hj)⟩

section Drawn

variable {s : State} {r : Reading} {row : Fin 36} {k : BandIx}

/-- A band that shows NONE, is CURTAINED on a board, or shows TAPE on a row below its first logical row. -/
theorem pictureColour_background (hlow : r.bands.lowest (holdsRow row.val) = some k)
    (h : (r.bands.get k).shows = .nothing ∨ ((∃ board, (r.bands.get k).shows = .board board) ∧ (r.bands.get k).curtain = .curtained)
      ∨ ((r.bands.get k).shows = .tape ∧ (r.bands.get k).top + heightMul (r.bands.get k).size ≤ row.val))
    (column : Fin 96) (x y : Nat) :
    pictureColour s r row column x y = (s.raster.takenAttrs.get (r.bands.get k).background).background := by
  rcases h with hnothing | ⟨⟨board, hboard⟩, hcurtain⟩ | ⟨htape, hbelow⟩
  · simp only [pictureColour, hlow, hnothing]
  · simp [pictureColour, hlow, hboard, hcurtain]
  · simp only [pictureColour, hlow, htape, if_neg (not_lt.mpr hbelow)]

/-- An OPEN band that shows a board. -/
theorem pictureColour_cells (hlow : r.bands.lowest (holdsRow row.val) = some k) {board : BoardIx}
    (hboard : (r.bands.get k).shows = .board board) (hopen : (r.bands.get k).curtain = .opened) (column : Fin 96) (x y : Nat) :
    pictureColour s r row column x y =
      cellColour s.raster.takenAttrs s.raster.takenBlink ((s.painter.cells.get row).get column) x y := by
  simp only [pictureColour, hlow, hboard, if_pos hopen]
  rfl

/-- The first logical row of a band that shows TAPE. -/
theorem pictureColour_tape (hlow : r.bands.lowest (holdsRow row.val) = some k) (htape : (r.bands.get k).shows = .tape)
    (hrow : row.val < (r.bands.get k).top + heightMul (r.bands.get k).size) (column : Fin 96) (x y : Nat) :
    pictureColour s r row column x y =
      tapeColour s.raster.takenAttrs s.raster.takenBlink r (r.bands.get k) (row.val - (r.bands.get k).top)
        (10 * column.val + x) y := by
  simp only [pictureColour, hlow, htape, if_pos hrow]

end Drawn

/-! ### The dots of cells and of the tape window (R149 to R151, R164, R165) -/

/-- A code has dots exactly where R149 gives it any. -/
theorem hasDots_iff (code : Byte) :
    hasDots code = true ↔ code = 0x18 ∨ code = 0x19 ∨ (0x20 ≤ code.toNat ∧ code.toNat ≤ 0x7F) := by
  simp only [hasDots, printable, Bool.or_eq_true, decide_eq_true_eq]
  bv_omega

theorem dotColour_of_hidden {a : Attr} {on : Bool} (hblink : a.blink = true) (hoff : on = false) (code : Byte)
    (column line : Nat) : dotColour a on code column line = a.background := by
  simp [dotColour, hblink, hoff]

/-- A dot that the blink does not hide is foreground on the underline or where the glyph has one. -/
theorem dotColour_of_shown {a : Attr} {on : Bool} (h : a.blink = false ∨ on = true) (code : Byte) (column line : Nat) :
    dotColour a on code column line =
      if (a.underline = true ∧ line = 15)
          ∨ ((code = 0x18 ∨ code = 0x19 ∨ (0x20 ≤ code.toNat ∧ code.toNat ≤ 0x7F)) ∧ Config.glyphPattern code column line = true)
        then a.foreground else a.background := by
  have hnot : (a.blink && !on) = false := by rcases h with h | h <;> simp [h]
  rw [dotColour, hnot, if_neg Bool.false_ne_true]
  simp only [glyphDot, Bool.or_eq_true, Bool.and_eq_true, decide_eq_true_eq, hasDots_iff]

/-- The glyph line that a row of the window draws: the whole glyph's at size 0, and each half's on its row at size 2 (R164). -/
theorem partLine_tapePart (b : Band) (windowRow y : Nat) :
    partLine (tapePart b windowRow) y =
      if heightMul b.size = 1 then y else if windowRow = 0 then y / 2 else 8 + y / 2 := by
  unfold tapePart
  split_ifs <;> rfl

/-- The late mark stands on the first 10 dots, not shifted by the offset (R165). -/
theorem tapeColour_of_late {r : Reading} {d : Nat} (hlate : r.late = true) (hd : d < 10) (attrs : Table 16 Attr) (on : Bool)
    (b : Band) (windowRow y : Nat) :
    tapeColour attrs on r b windowRow d y =
      dotColour (attrs.get r.staleAttr) on 0x7F d (partLine (tapePart b windowRow) y) := if_pos ⟨hlate, hd⟩

/-- Elsewhere the window's character at (d + offset) div 10 is drawn, a space beyond its end (R164). -/
theorem tapeColour_of_window {r : Reading} {d : Nat} (h : r.late = false ∨ 10 ≤ d) (attrs : Table 16 Attr) (on : Bool)
    (b : Band) (windowRow y : Nat) :
    tapeColour attrs on r b windowRow d y =
      dotColour (attrs.get r.labelAttr) on (r.window.getD ((d + r.offset) / 10) 0x20) ((d + r.offset) % 10)
        (partLine (tapePart b windowRow) y) := by
  refine if_neg ?_
  rintro ⟨hlate, hd⟩
  rcases h with h | h
  · exact Bool.false_ne_true (h.symm.trans hlate)
  · omega

end Sys2Proof.Machine

open Sys2Proof Sys2Proof.Machine

/-- Settles O43: a frame start and a reading come about where the Painter's work is done, by the phase of the part. -/
theorem frameStartAndReading : Obligations.FrameStartAndReading := by
  refine ⟨fun s hdone howed => ⟨fun hphase => ?_, fun hphase on count hblink => ?_⟩,
    fun s hdone howed => ⟨fun hphase => ?_, fun hphase => ?_⟩, fun s hbusy howed => ?_⟩
  · rw [exec_frameStart howed, State.startFrame, if_pos hdone, if_neg hphase, State.frameTaking, Painter.resetFill_eq]
    rfl
  · rw [exec_frameStart howed, State.startFrame, if_pos hdone, if_pos hphase, State.frameTaking, Painter.resetFill_eq,
      State.frameWork, Raster.advanceBlink_eq hblink]
    rfl
  · rw [exec_rasterReading howed, State.readFrame, if_pos hdone, if_pos hphase]
    rfl
  · rw [exec_rasterReading howed, State.readFrame, if_pos hdone, if_neg hphase]
    rfl
  · have hnot : ¬s.workDone = true := Bool.eq_false_iff.mp hbusy
    rw [exec_frameStart howed, exec_rasterReading howed, State.startFrame, State.readFrame, if_neg hnot, if_neg hnot]
    exact ⟨rfl, rfl⟩

/-- Settles O45: the sync and colour lines of every line and dot, the band that draws each row, and the dots of its glyphs. -/
theorem pictureDrawn : Obligations.PictureDrawn := by
  refine ⟨fun s line dot hline hdot => ⟨?_, ?_, fun hblank => ?_, ?_⟩, fun s row column x y => ⟨fun hnone => ?_, fun r hr => ?_⟩,
    fun attrs on c x y column line hpart => ?_, fun attrs on r b windowRow d y line hl => ⟨fun hlate hd => ?_, ?_⟩,
    fun a on code column line => ⟨fun hblink hoff => dotColour_of_hidden hblink hoff code column line,
      fun hshown => dotColour_of_shown hshown code column line⟩⟩
  · simp [hsyncLevel]
  · simp [vsyncLevel]
  · rw [videoOut_of_blanking hblank]
    exact ⟨rfl, rfl, rfl, rfl⟩
  · rintro row column x y hx hy rfl rfl
    rw [videoOut_of_active s row column hx hy]
    exact colourLines_weights _ _ _
  · rw [frameColour, hnone]
  · rw [frameColour_of_reading hr]
    refine ⟨fun houtside => pictureColour_of_outside houtside s column x y, ?_⟩
    rintro k b rfl hk honly
    have hlow := lowest_of_only hk honly
    exact ⟨fun h => pictureColour_background hlow h column x y,
      fun ⟨board, hboard⟩ hopen => pictureColour_cells hlow hboard hopen column x y,
      fun htape hrow => pictureColour_tape hlow htape hrow column x y⟩
  · obtain ⟨hcolumn, hline⟩ : partColumn c.part x = column ∧ partLine c.part y = line := by
      revert hpart
      cases c.part <;> simp +contextual [partColumn, partLine]
    rw [cellColour, hcolumn, hline]
  · rw [tapeColour_of_late hlate hd, partLine_tapePart, ← hl]
  · intro hwindow code hin hbeyond
    have hcode : r.window.getD ((d + r.offset) / 10) 0x20 = code := by
      rw [List.getD_eq_getElem?_getD]
      rcases lt_or_ge ((d + r.offset) / 10) r.window.length with hlt | hge
      · rw [hin hlt, Option.getD_some]
      · rw [List.getElem?_eq_none hge, Option.getD_none, hbeyond hge]
    rw [tapeColour_of_window hwindow, hcode, partLine_tapePart, ← hl]
end

section
/-! SUPPORT. The law of the Dirty List as a law of the screen's parts, kept by each of their elementary changes, and of the Painter's
second step. -/

namespace Sys2Proof.Machine

open Sys2Proof

/-- While the Painter takes, its budget is not counted and the Dirty List is not empty (R129). -/
def Painter.TakingLawful (p : Painter) : Prop :=
  ∀ budget counted, p.work = .taking budget counted → counted < budget ∧ p.dirty ≠ []

/-- The law of the Dirty List is one of the screen's parts and one of the second step. -/
theorem State.dirtyLawful_iff {s : State} : s.DirtyLawful ↔ s.screen.state.DirtyLawful ∧ s.painter.TakingLawful :=
  ⟨fun h => ⟨⟨h.nodup, h.marks, h.erasing, h.free, nofun⟩, h.taking⟩,
    fun ⟨h, ht⟩ => ⟨h.nodup, h.marks, h.erasing, h.free, ht⟩⟩

@[simp] theorem Screen.state_dirty (m : Screen) : m.state.painter.dirty = m.dirty := rfl

/-- A screen with the same Dirty List, and with entries of the same states and dirty marks. -/
theorem Screen.dirtyLawful_congr {m n : Screen} (h : m.state.DirtyLawful) (hd : n.dirty = m.dirty)
    (hs : ∀ i, (n.fields.get i).state = (m.fields.get i).state) (hm : ∀ i, (n.fields.get i).dirty = (m.fields.get i).dirty) :
    n.state.DirtyLawful where
  nodup := by
    rw [Screen.state_dirty, hd]
    exact h.nodup
  marks i := by
    rw [Screen.state_dirty, Screen.state_fields, hd, hm]
    exact h.marks i
  erasing i := by
    rw [Screen.state_fields, hs, hm]
    exact h.erasing i
  free i := by
    rw [Screen.state_fields, hs, hm]
    exact h.free i
  taking := nofun

/-- One entry is written, and it alone joins or leaves the Dirty List, as its dirty mark says. -/
theorem Screen.setField_dirtyLawful {m : Screen} (h : m.state.DirtyLawful) {i : EntryIx} {f : Field} {bands : Table 4 Band}
    {dirty : List EntryIx} (hnodup : dirty.Nodup) (hothers : ∀ j, j ≠ i → (j ∈ dirty ↔ j ∈ m.dirty))
    (hmark : f.dirty = true ↔ i ∈ dirty) (herasing : f.state = .erasing → f.dirty = true)
    (hfree : f.state = .free → f.dirty = false) : (Screen.mk (m.fields.set i f) bands dirty).state.DirtyLawful where
  nodup := hnodup
  marks j := by
    simp only [Screen.state_dirty, Screen.state_fields, Table.get_set]
    split
    · subst j
      exact hmark
    · rename_i hj
      rw [hothers j hj]
      exact h.marks j
  erasing j := by
    simp only [Screen.state_fields, Table.get_set]
    split
    · exact herasing
    · exact h.erasing j
  free j := by
    simp only [Screen.state_fields, Table.get_set]
    split
    · exact hfree
    · exact h.free j
  taking := nofun

/-- An entry that is or becomes dirty is in the list once: it joins at the tail where it was not in it. -/
theorem Screen.queueField_dirtyLawful {m : Screen} (h : m.state.DirtyLawful) {i : EntryIx} {f : Field} {bands : Table 4 Band}
    (hdirty : f.dirty = true) (hstate : f.state ≠ .free) :
    (Screen.mk (m.fields.set i f) bands (m.dirty ++ if (m.fields.get i).dirty then [] else [i])).state.DirtyLawful := by
  have hmarks : (m.fields.get i).dirty = true ↔ i ∈ m.dirty := h.marks i
  refine Screen.setField_dirtyLawful h ?_ ?_ ?_ (fun _ => hdirty) (fun hs => absurd hs hstate)
  · split
    · rw [List.append_nil]
      exact h.nodup
    · rename_i hclean
      exact List.nodup_append_comm.mp (List.nodup_cons.mpr ⟨mt hmarks.mpr hclean, h.nodup⟩)
  · intro j hj
    split <;> simp [hj]
  · split
    · rename_i hd
      simp [hdirty, hmarks.mp hd]
    · simp [hdirty]

/-- The head of the list leaves it, and its entry is clean and not ERASING. -/
theorem Screen.takeField_dirtyLawful {m : Screen} (h : m.state.DirtyLawful) {i : EntryIx} {f : Field} {bands : Table 4 Band}
    {rest : List EntryIx} (hhead : m.dirty = i :: rest) (hclean : f.dirty = false) (hstate : f.state ≠ .erasing) :
    (Screen.mk (m.fields.set i f) bands rest).state.DirtyLawful := by
  obtain ⟨hi, hrest⟩ : i ∉ rest ∧ rest.Nodup := List.nodup_cons.mp (hhead ▸ h.nodup)
  refine Screen.setField_dirtyLawful h hrest ?_ ?_ (fun hs => absurd hs hstate) (fun _ => hclean)
  · intro j hj
    simp [hhead, hj]
  · simp [hclean, hi]

/-- A LIVE entry takes the place of a FREE one, which is not in the list, and joins the list where it is dirty. -/
theorem Screen.mapField_dirtyLawful {m : Screen} (h : m.state.DirtyLawful) {i : EntryIx} {f : Field} {bands : Table 4 Band}
    (hfree : (m.fields.get i).state = .free) (hlive : f.state = .live) :
    (Screen.mk (m.fields.set i f) bands (m.dirty ++ if f.dirty then [i] else [])).state.DirtyLawful := by
  have hclean : (m.fields.get i).dirty = false := h.free i hfree
  cases hd : f.dirty with
  | true =>
    have hqueued := Screen.queueField_dirtyLawful (bands := bands) h (i := i) hd (by rw [hlive]; nofun)
    rwa [hclean] at hqueued
  | false =>
    have hnot : i ∉ m.dirty := fun hi => by
      have hmark : (m.fields.get i).dirty = true := (h.marks i).mpr hi
      exact Bool.false_ne_true (hclean.symm.trans hmark)
    refine Screen.setField_dirtyLawful h ?_ ?_ ?_ (fun hs => ?_) (fun _ => hd)
    · simpa using h.nodup
    · simp
    · simp [hd, hnot]
    · cases hlive.symm.trans hs

/-- Every elementary change keeps the law of the Dirty List. -/
theorem Screen.Change.keeps_dirtyLawful {m n : Screen} (hc : m.Change n) (h : m.state.DirtyLawful) : n.state.DirtyLawful := by
  cases hc with
  | reset => exact (State.dirtyLawful_iff.mp reset_dirtyLawful).1
  | marked i hlive hclean happears =>
    have hqueued := Screen.queueField_dirtyLawful (bands := m.bands) h (i := i) (f := { m.fields.get i with dirty := true })
      rfl (by rw [hlive]; nofun)
    rwa [hclean] at hqueued
  | swept k i hin hpending =>
    refine Screen.queueField_dirtyLawful h rfl ?_
    have hlive : (m.fields.get i).state = .live := by
      rw [liveIn, Bool.and_eq_true, decide_eq_true_eq] at hin
      exact hin.1
    rw [hlive]
    nofun
  | mapped i f hfree hlive hrange hduplicates hoverlaps => exact Screen.mapField_dirtyLawful h hfree hlive
  | retexted i text hitem hlength htext =>
    refine Screen.dirtyLawful_congr h rfl (fun j => ?_) (fun j => ?_)
    all_goals
      rw [Table.get_set]
      split
      · subst j; rfl
      · rfl
  | erased i hlive =>
    have hdirty : (if (m.fields.get i).dirty then m.dirty else m.dirty ++ [i]) =
        m.dirty ++ if (m.fields.get i).dirty then [] else [i] := by
      split
      · exact (List.append_nil _).symm
      · rfl
    rw [hdirty]
    exact Screen.queueField_dirtyLawful h rfl nofun
  | freed i =>
    refine Screen.setField_dirtyLawful h (h.nodup.filter _) ?_ ?_ nofun (fun _ => rfl)
    · intro j hj
      simp [hj]
    · simp [Field.free]
  | rendered i rest hhead hstate => exact Screen.takeField_dirtyLawful h hhead rfl hstate
  | released i rest hhead hstate => exact Screen.takeField_dirtyLawful h hhead rfl nofun
  | unmarked k =>
    refine Screen.dirtyLawful_congr h rfl (fun j => ?_) (fun j => ?_)
    all_goals rw [Table.get_map]
  | hidden | boarded | taped | retired | resized | veiled | cleared | opened =>
    exact Screen.dirtyLawful_congr h rfl (fun _ => rfl) (fun _ => rfl)

end Sys2Proof.Machine
end

section
/-! SUPPORT. What a step can do to the Cell Store and to the law of the Painter's second step, said once: every command but the
Painter's own and the frame start leaves the cells alone, and every command keeps the law. -/

namespace Sys2Proof.Machine

open Sys2Proof

/-! ### The Painter's part of a change -/

/-- No cell is written, and the second step goes on only while it may. -/
structure Painter.HoldsStill (p q : Painter) : Prop where
  cells : q.cells = p.cells
  taking : p.TakingLawful → q.TakingLawful

theorem Painter.HoldsStill.refl (p : Painter) : p.HoldsStill p := ⟨rfl, id⟩

theorem Painter.HoldsStill.of_eq {p q : Painter} (h : q = p) : p.HoldsStill q := h ▸ .refl p

theorem Painter.HoldsStill.trans {p q r : Painter} (h : p.HoldsStill q) (h' : q.HoldsStill r) : p.HoldsStill r :=
  ⟨h'.cells.trans h.cells, h'.taking ∘ h.taking⟩

/-- Entries that join the Dirty List do not end the second step. -/
theorem Painter.holdsStill_append (p : Painter) (new : List EntryIx) : p.HoldsStill { p with dirty := p.dirty ++ new } :=
  ⟨rfl, fun h budget counted hw => ⟨(h budget counted hw).1, List.append_ne_nil_of_left_ne_nil (h budget counted hw).2 _⟩⟩

/-- Outside the second step there is nothing to keep. -/
theorem Painter.takingLawful_of_work {p : Painter} (h : ∀ budget counted, p.work ≠ .taking budget counted) : p.TakingLawful :=
  fun budget counted hw => absurd hw (h budget counted)

/-- The second step stops at the moment its budget is counted or the list is empty (R129). -/
theorem State.updateWork_takingLawful (s : State) : s.updateWork.painter.TakingLawful :=
  fun _ _ hw => (PaintWork.update_eq_taking_iff.mp hw).2

/-- A change that writes no cell, with the Painter's work following it. -/
theorem State.updateWork_holdsStill {p : Painter} {s : State} (h : s.painter.cells = p.cells) :
    p.HoldsStill s.updateWork.painter :=
  ⟨h, fun _ => s.updateWork_takingLawful⟩

/-- A walk whose every step holds still holds still. -/
theorem State.foldl_holdsStill {α : Type} {f : State → α → State} (h : ∀ (s : State) a, s.painter.HoldsStill (f s a).painter)
    (l : List α) (s : State) : s.painter.HoldsStill (l.foldl f s).painter := by
  induction l generalizing s with
  | nil => exact .refl _
  | cons a l ih => exact (h s a).trans (ih (f s a))

/-! ### Marks, answers and the step of a request (R98, R173) -/

@[simp] theorem State.ack_painter (kind : Byte) (value : Nat) (s : State) : (s.ack kind value).painter = s.painter := rfl

@[simp] theorem State.placed_painter (s : State) : s.placed.painter = s.painter := by
  unfold State.placed
  split <;> rfl

@[simp] theorem State.admissionMade_painter (s : State) : s.admissionMade.painter = s.painter := by
  unfold State.admissionMade
  split
  · rfl
  · exact s.placed_painter

@[simp] theorem State.offerPrint_painter (slot : Slot) (tape : Bool) (items : TickItems) (s : State) :
    (s.offerPrint slot tape items).painter = s.painter := by
  unfold State.offerPrint
  split
  · split <;> rfl
  · rfl

/-- What is owed queues entries, and touches nothing else of the Painter. -/
theorem State.settled_painter (s : State) :
    ∃ new, s.settled.painter = { s.painter with dirty := s.painter.dirty ++ new } := by
  obtain ⟨new, answer, h⟩ := s.settled_queued
  refine ⟨new, ?_⟩
  rw [h]
  cases answer <;> rfl

@[simp] theorem State.settled_work (s : State) : s.settled.painter.work = s.painter.work := by
  obtain ⟨_, h⟩ := s.settled_painter
  rw [h]

@[simp] theorem State.settled_fillOwed (s : State) : s.settled.painter.fillOwed = s.painter.fillOwed := by
  obtain ⟨_, h⟩ := s.settled_painter
  rw [h]

theorem State.settled_holdsStill (s : State) : s.painter.HoldsStill s.settled.painter := by
  obtain ⟨new, h⟩ := s.settled_painter
  rw [h]
  exact s.painter.holdsStill_append new

theorem State.ready_holdsStill (s : State) : s.painter.HoldsStill s.ready.painter := by
  rw [State.ready, State.placed_painter]
  exact s.settled_holdsStill

theorem State.markEntry_holdsStill (s : State) (i : EntryIx) : s.painter.HoldsStill (s.markEntry i).painter := by
  rw [State.markEntry_eq]
  exact s.painter.holdsStill_append _

theorem State.markWhere_holdsStill (p : Field → Bool) (s : State) : s.painter.HoldsStill (s.markWhere p).painter :=
  State.foldl_holdsStill State.markEntry_holdsStill _ s

theorem State.markItems_holdsStill (slot : Slot) (items : List Item) (s : State) :
    s.painter.HoldsStill (s.markItems slot items).painter :=
  State.foldl_holdsStill (fun t item => t.markWhere_holdsStill (showsItem slot item)) items s

theorem State.handOver_holdsStill (marks : Marks) (s : State) : s.painter.HoldsStill (s.handOver marks).painter := by
  unfold State.handOver
  split
  · exact .refl _
  · cases marks with
    | lookups slot items => exact s.markItems_holdsStill slot items
    | sweep set attr => exact s.markWhere_holdsStill (inPalette set)

/-- The step of a request holds still where its work does. -/
theorem request_holdsStill {α : Type} {kind : Byte} {parse : List Byte → Except Reason α} {work : α → State → State} {s t : State}
    (hw : ∀ a (u : State), u.painter.HoldsStill (work a u).painter) (h : request kind parse work s = .next t) :
    s.painter.HoldsStill t.painter := by
  rcases request_cases h with rfl | ⟨reason, rfl⟩ | ⟨p, a, -, rfl⟩
  · exact s.ready_holdsStill
  · exact s.ready_holdsStill
  · exact s.ready_holdsStill.trans (hw a s.ready.takeHead)

/-- The step of a request whose work leaves the Painter alone. -/
theorem request_keeps_painter {α : Type} {kind : Byte} {parse : List Byte → Except Reason α} {work : α → State → State}
    {s t : State} (hw : ∀ a (u : State), (work a u).painter = u.painter) (h : request kind parse work s = .next t) :
    s.painter.HoldsStill t.painter :=
  request_holdsStill (fun a u => .of_eq (hw a u)) h

/-! ### The Instrument Table, Quote Intake and the Colour Unit -/

theorem defineWork_holdsStill (r : DefineReq) (s : State) : s.painter.HoldsStill (defineWork r s).painter := by
  simpa [defineWork] using State.markItems_holdsStill r.slot slotItems (s.setRecord r.slot (definedQuote r.format r.symbol))

theorem clearWork_holdsStill (slot : Slot) (s : State) : s.painter.HoldsStill (clearWork slot s).painter := by
  unfold clearWork
  split
  · exact .refl _
  · simpa using State.markItems_holdsStill slot _ (s.setRecord slot _)

theorem tradingWork_holdsStill (kind : Byte) (state : RecState) (slot : Slot) (s : State) :
    s.painter.HoldsStill (tradingWork kind state slot s).painter := by
  unfold tradingWork
  split
  · exact .refl _
  · simpa using State.markItems_holdsStill slot _ (s.setRecord slot _)

theorem setrefWork_holdsStill (r : Slot × Option Nat) (s : State) : s.painter.HoldsStill (setrefWork r s).painter := by
  unfold setrefWork
  split
  · exact .refl _
  · simpa using State.markItems_holdsStill r.1 _ (s.setRecord r.1 _)

theorem openDayWork_holdsStill (s : State) : s.painter.HoldsStill (openDayWork () s).painter :=
  State.markWhere_holdsStill _ { s with records := s.records.map rollQuote }

theorem State.feedChanged_holdsStill (s : State) : s.painter.HoldsStill s.feedChanged.painter :=
  s.markWhere_holdsStill fun f => priceBearing f.item

theorem State.reloadFeed_holdsStill (s : State) : s.painter.HoldsStill s.reloadFeed.painter := by
  unfold State.reloadFeed
  split
  · exact .refl _
  · exact .refl _
  · simpa using State.feedChanged_holdsStill (s.setWatch _)

theorem State.expire_holdsStill (s : State) : s.painter.HoldsStill s.expire.painter := by
  unfold State.expire
  split
  · simpa using State.feedChanged_holdsStill (s.setWatch _)
  · exact .refl _
  · exact .refl _

theorem watchWork_holdsStill (period : Nat) (s : State) : s.painter.HoldsStill (watchWork period s).painter := by
  unfold watchWork
  rw [State.ack_painter]
  split
  · exact .refl _
  · simpa using State.reloadFeed_holdsStill (s.setWatch _)
  · simpa using State.reloadFeed_holdsStill (s.setWatch _)

theorem State.applyAndPrint_holdsStill (slot : Slot) (tape : Bool) (it : TickItems) (s : State) :
    s.painter.HoldsStill (s.applyAndPrint slot tape it).painter := by
  rw [State.applyAndPrint, State.offerPrint_painter]
  exact s.settled_holdsStill.trans (State.handOver_holdsStill _ (s.settled.setRecord slot _))

theorem tickWork_holdsStill (r : TickReq) (s : State) : s.painter.HoldsStill (tickWork r s).painter := by
  refine s.reloadFeed_holdsStill.trans ?_
  unfold tickWork
  dsimp only
  split
  · unfold State.disposeHit
    split
    · exact State.applyAndPrint_holdsStill _ _ _ _
    · split <;> exact .refl _
  · exact .refl _

theorem releaseEntries_holdsStill (l : List Staged) (applied : Nat) (s : State) :
    s.painter.HoldsStill (releaseEntries l applied s).2.painter := by
  induction l generalizing applied s with
  | nil => exact .refl _
  | cons e l ih =>
    unfold releaseEntries
    split
    · exact ih _ _
    · exact (s.applyAndPrint_holdsStill _ _ _).trans (ih _ _)

theorem continueRelease_holdsStill (n dealt applied : Nat) (s : State) :
    s.painter.HoldsStill (continueRelease n dealt applied s).painter := by
  unfold continueRelease
  split
  · exact s.settled_holdsStill
  · dsimp only
    split <;> exact releaseEntries_holdsStill _ _ _

theorem execRelease_holdsStill {n : Nat} {s t : State} (h : execRelease n s = .next t) : s.painter.HoldsStill t.painter := by
  unfold execRelease at h
  split at h
  · cases h
    exact continueRelease_holdsStill _ _ _ _
  · exact request_holdsStill (fun _ u => continueRelease_holdsStill n 0 0 u) h
  · exact request_holdsStill (fun _ u => continueRelease_holdsStill n 0 0 u) h
  · cases h
    exact s.settled_holdsStill

theorem State.scanStep_holdsStill (s : State) : s.painter.HoldsStill s.scanStep.painter := by
  have hvisit : ∀ slot, s.painter.HoldsStill (s.visit slot).painter := by
    intro slot
    unfold State.visit
    dsimp only
    split
    · exact .refl _
    · split
      · exact .refl _
      · exact State.handOver_holdsStill _ (s.setRecord slot _)
  unfold State.scanStep
  split
  · exact hvisit _
  · exact .refl _

theorem setpalWork_holdsStill (r : SetIx × Fin 14 × AttrIx) (s : State) : s.painter.HoldsStill (setpalWork r s).painter :=
  State.handOver_holdsStill (.sweep r.1 r.2.2) { s with colour := { s.colour with
    palettes := s.colour.palettes.modify r.1 (fun p => p.set r.2.1 r.2.2) } }

theorem installWork_painter (e : DirEntry) (s : State) : (installWork e s).painter = s.painter := by
  unfold installWork
  split
  · rfl
  · split
    · rfl
    · split
      · rfl
      · split <;> rfl

theorem removeWork_painter (r : Venue × Bool × Code) (s : State) : (removeWork r s).painter = s.painter := by
  unfold removeWork
  split <;> rfl

theorem tapetextWork_painter (text : List Byte) (s : State) : (tapetextWork text s).painter = s.painter := by
  unfold tapetextWork
  split
  · rfl
  · split <;> rfl

/-! ### The Field Map and the Band Table -/

/-- A sweep queues entries, and touches nothing else of the Painter. -/
theorem State.sweepBand_holdsStill (k : BandIx) (s : State) : s.painter.HoldsStill (s.sweepBand k).painter := by
  rw [State.sweepBand_eq]
  exact s.painter.holdsStill_append _

theorem State.refreshBand_holdsStill (k : BandIx) (s : State) : s.painter.HoldsStill (s.refreshBand k).painter :=
  State.sweepBand_holdsStill k (s.modifyBand k _)

@[simp] theorem State.holdCurtain_painter (i : EntryIx) (s : State) (k : BandIx) : (s.holdCurtain i k).painter = s.painter := by
  unfold State.holdCurtain State.setUnpainted
  split
  · split <;> rfl
  · rfl

theorem State.placeEntry_cells (i : EntryIx) (f : Field) (s : State) : (s.placeEntry i f).painter.cells = s.painter.cells :=
  (State.foldl_holdsStill (fun t k => .of_eq (t.holdCurtain_painter i k)) allBands
    { s with fields := s.fields.set i f }).trans (State.markEntry_holdsStill _ i) |>.cells

theorem mapWork_holdsStill (f : Field) (s : State) : s.painter.HoldsStill (mapWork f s).painter := by
  unfold mapWork
  split
  · exact .refl _
  · split
    · exact .refl _
    · split
      · exact .refl _
      · rw [State.ack_painter]
        exact State.updateWork_holdsStill (State.placeEntry_cells _ f s)

theorem unmapWork_holdsStill (i : EntryIx) (s : State) : s.painter.HoldsStill (unmapWork i s).painter := by
  unfold unmapWork
  rw [State.ack_painter]
  split
  · refine State.updateWork_holdsStill ?_
    split
    · rw [State.eraseEntry_eq]
    · rw [State.freeEntry_eq]
  · exact .refl _

theorem mflushWork_holdsStill (g : FieldGroup) (s : State) : s.painter.HoldsStill (mflushWork g s).painter := by
  refine State.updateWork_holdsStill ((State.foldl_holdsStill (fun t k => t.refreshBand_holdsStill k) _ _).cells.trans ?_)
  rw [State.freeEntries_eq]

theorem settextWork_holdsStill (r : EntryIx × List Byte) (s : State) : s.painter.HoldsStill (settextWork r s).painter := by
  unfold settextWork
  split
  · rw [State.ack_painter]
    exact State.markEntry_holdsStill { s with fields := s.fields.modify r.1 (fun f => { f with text := r.2 }) } r.1
  · exact .refl _

@[simp] theorem State.leaveTape_painter (shown : Shows) (s : State) : (s.leaveTape shown).painter = s.painter := by
  unfold State.leaveTape
  split <;> rfl

theorem State.settleBand_cells (k : BandIx) (height : Nat) (shown : Shows) (s : State) :
    (s.settleBand k height shown).painter.cells = s.painter.cells := by
  unfold State.settleBand State.freeBand
  split
  · rw [State.leaveTape_painter]
    rfl
  · split
    · rfl
    · exact (s.refreshBand_holdsStill k).cells
    · rfl

theorem bandWork_holdsStill (r : BandReq) (s : State) : s.painter.HoldsStill (bandWork r s).painter := by
  unfold bandWork
  split
  · exact .refl _
  · split
    · exact .refl _
    · exact State.updateWork_holdsStill (State.settleBand_cells _ _ _ (s.modifyBand r.band _))

@[simp] theorem State.stealFrom_painter (k : BandIx) (target : Shows) (s : State) (j : BandIx) :
    (s.stealFrom k target j).painter = s.painter := by
  unfold State.stealFrom
  split <;> rfl

theorem State.stealBoard_holdsStill (k : BandIx) (target : Shows) (s : State) :
    s.painter.HoldsStill (s.stealBoard k target).painter := by
  cases target with
  | board board => exact State.foldl_holdsStill (fun t j => .of_eq (t.stealFrom_painter k (.board board) j)) allBands s
  | nothing | tape => exact .refl _

@[simp] theorem State.leaveBoard_painter (k : BandIx) (s : State) : (s.leaveBoard k).painter = s.painter := by
  unfold State.leaveBoard
  split <;> rfl

theorem State.takeTarget_holdsStill (k : BandIx) (target : Shows) (s : State) :
    s.painter.HoldsStill (s.takeTarget k target).painter := by
  cases target with
  | nothing => exact State.updateWork_holdsStill rfl
  | board board => exact State.updateWork_holdsStill (State.refreshBand_holdsStill k (s.modifyBand k _)).cells
  | tape =>
    unfold State.takeTarget
    dsimp only
    split
    · exact .refl _
    · exact State.updateWork_holdsStill rfl

theorem showWork_holdsStill (r : BandIx × Shows) (s : State) : s.painter.HoldsStill (showWork r s).painter := by
  unfold showWork
  split
  · exact .refl _
  · have hleft := s.stealBoard_holdsStill r.1 r.2
    rw [← State.leaveBoard_painter r.1 (s.stealBoard r.1 r.2)] at hleft
    dsimp only
    rw [State.ack_painter]
    split
    · exact hleft.trans (State.takeTarget_holdsStill _ _ _)
    · rw [← State.leaveTape_painter (s.bands.get r.1).shows ((s.stealBoard r.1 r.2).leaveBoard r.1)] at hleft
      exact hleft.trans (State.takeTarget_holdsStill _ _ _)

/-! ### The Link Interface -/

/-- A reset ends the Painter's work, and keeps the cells until the fill (R134, R179). -/
theorem State.resetBlocks_holdsStill (cause : ResetCause) (phase : Phase) (s : State) :
    s.painter.HoldsStill (s.resetBlocks cause phase).painter :=
  ⟨rfl, fun _ => Painter.takingLawful_of_work nofun⟩

theorem continueStatus_painter (n done : Nat) (r : StatusReply) (s : State) : (continueStatus n done r s).painter = s.painter := by
  rw [continueStatus_eq]
  split <;> rfl

theorem execStatus_holdsStill {n : Nat} {s t : State} (h : execStatus n s = .next t) : s.painter.HoldsStill t.painter := by
  unfold execStatus at h
  split at h
  · cases h
    rw [continueStatus_painter]
    exact s.settled_holdsStill
  · exact request_keeps_painter (fun _ u => continueStatus_painter n 0 _ u) h
  · exact request_keeps_painter (fun _ u => continueStatus_painter n 0 _ u) h
  · cases h
    exact s.settled_holdsStill

theorem execUnknownKind_holdsStill {s t : State} (h : execUnknownKind s = .next t) : s.painter.HoldsStill t.painter := by
  unfold execUnknownKind at h
  split at h
  · split at h
    · cases h
      exact s.ready_holdsStill
    · cases h
      exact s.ready_holdsStill
  · cases h
    exact s.ready_holdsStill

theorem execResetNReleased_painter {rate1 rate0 : Bool} {s t : State} (h : execResetNReleased rate1 rate0 s = .next t) :
    t.painter = s.painter := by
  unfold execResetNReleased at h
  split at h <;> cases h <;> rfl

theorem execInitialisationEnd_painter {s t : State} (h : execInitialisationEnd s = .next t) : t.painter = s.painter := by
  unfold execInitialisationEnd at h
  split at h <;> cases h <;> rfl

theorem execRxdCharacter_painter {byte : Byte} {stopHigh : Bool} {s t : State} (h : execRxdCharacter byte stopHigh s = .next t) :
    t.painter = s.painter := by
  unfold execRxdCharacter at h
  split at h <;> cases h <;> rfl

theorem execFrameGapTimeout_painter {s t : State} (h : execFrameGapTimeout s = .next t) : t.painter = s.painter := by
  unfold execFrameGapTimeout at h
  split at h <;> cases h <;> rfl

theorem execBadFrameAdmission_painter {s t : State} (h : execBadFrameAdmission s = .next t) : t.painter = s.painter := by
  unfold execBadFrameAdmission at h
  split at h <;> cases h <;> simp

theorem execOverrunAdmission_painter {s t : State} (h : execOverrunAdmission s = .next t) : t.painter = s.painter := by
  unfold execOverrunAdmission at h
  split at h <;> cases h <;> simp

theorem execFeedNotice_painter {s t : State} (h : execFeedNotice s = .next t) : t.painter = s.painter := by
  unfold execFeedNotice at h
  split at h <;> cases h <;> simp

theorem execMissNotice_painter {s t : State} (h : execMissNotice s = .next t) : t.painter = s.painter := by
  unfold execMissNotice at h
  split at h <;> cases h <;> simp

/-! ### The Painter and the Raster -/

theorem State.releaseStep_holdsStill (k : BandIx) (s : State) : s.painter.HoldsStill (s.releaseStep k).painter := by
  unfold State.releaseStep
  split
  · split
    · exact ⟨rfl, fun _ => Painter.takingLawful_of_work nofun⟩
    · exact .refl _
  · exact .refl _

theorem State.readFrame_holdsStill (s : State) : s.painter.HoldsStill s.readFrame.painter := by
  unfold State.readFrame
  split
  · exact ⟨rfl, fun _ => Painter.takingLawful_of_work nofun⟩
  · exact .refl _

/-- The fill touches neither the work nor the Dirty List. -/
theorem Painter.resetFill_takingLawful {p : Painter} (h : p.TakingLawful) : p.resetFill.TakingLawful := by
  rw [Painter.resetFill_eq]
  exact h

/-- A frame start writes the fill that is owed, and no other cell. -/
theorem State.startFrame_cells {s : State} (h : s.painter.fillOwed = false) : s.startFrame.painter.cells = s.painter.cells := by
  have hfill : ∀ p : Painter, p.fillOwed = false → p.resetFill.cells = p.cells := by
    intro p hp
    rw [Painter.resetFill_eq, hp]
    rfl
  unfold State.startFrame
  split
  · split
    · exact hfill s.frameWork.painter h
    · exact hfill s.painter h
  · rfl

theorem State.startFrame_takingLawful {s : State} (h : s.painter.TakingLawful) : s.startFrame.painter.TakingLawful := by
  unfold State.startFrame
  split
  · split
    · exact Painter.resetFill_takingLawful (State.updateWork_takingLawful _)
    · exact Painter.resetFill_takingLawful h
  · exact h

theorem State.clearStep_takingLawful {s : State} (k : BandIx) (h : s.painter.TakingLawful) :
    (s.clearStep k).painter.TakingLawful := by
  unfold State.clearStep
  split
  · split
    · exact State.updateWork_takingLawful _
    · exact h
  · exact h
  · exact h
  · exact h

/-- Outside the first step no band is cleared. -/
theorem State.clearStep_of_not_clearing {s : State} (h : ∀ looks passed, s.painter.work ≠ .clearing looks passed) (k : BandIx) :
    s.clearStep k = s := by
  unfold State.clearStep
  cases hw : s.painter.work with
  | clearing looks passed => exact absurd hw (h looks passed)
  | idle | taking budget counted | releasing looks => rfl

theorem execTaking_takingLawful {s t : State} (h : s.painter.TakingLawful) (ht : execTaking s = .next t) :
    t.painter.TakingLawful := by
  unfold execTaking at ht
  split at ht
  · split at ht
    · cases ht
      exact State.updateWork_takingLawful _
    · cases ht
      exact h
  · cases ht
    exact State.updateWork_takingLawful _
  · cases ht
    exact h
  · cases ht
    exact h

/-- Outside frame-start work no entry is taken. -/
theorem execTaking_of_idle {s : State} (h : s.painter.work = .idle) : execTaking s = .next s := by
  rw [execTaking, h]

/-! ### Every command -/

/-- The commands that write cells: the frame start, with the reset fill, and the Painter's clears and takings. -/
def writesCells : Instr → Bool
  | .frameStart | .bandClear _ | .taking => true
  | _ => false

/-- Every other command writes no cell, and keeps the law of the second step. -/
theorem exec_holdsStill {c : Instr} {s t : State} (h : exec c s = .next t) (hc : writesCells c = false) :
    s.painter.HoldsStill t.painter := by
  cases c with
  | resetNAsserted => cases h; exact s.resetBlocks_holdsStill .pin .held
  | resetNReleased rate1 rate0 => exact .of_eq (execResetNReleased_painter h)
  | initialisationEnd => exact .of_eq (execInitialisationEnd_painter h)
  | rxdCharacter byte stopHigh => exact .of_eq (execRxdCharacter_painter h)
  | frameGapTimeout => exact .of_eq (execFrameGapTimeout_painter h)
  | recordSent => cases h; exact .refl _
  | badFrameAdmission => exact .of_eq (execBadFrameAdmission_painter h)
  | overrunAdmission => exact .of_eq (execOverrunAdmission_painter h)
  | feedNotice => exact .of_eq (execFeedNotice_painter h)
  | missNotice => exact .of_eq (execMissNotice_painter h)
  | unknownKind => exact execUnknownKind_holdsStill h
  | reset => exact request_holdsStill (fun _ u => u.resetBlocks_holdsStill .message .initialising) h
  | status n => exact execStatus_holdsStill h
  | define => exact request_holdsStill defineWork_holdsStill h
  | clear => exact request_holdsStill clearWork_holdsStill h
  | halt => exact request_holdsStill (tradingWork_holdsStill _ _) h
  | resume => exact request_holdsStill (tradingWork_holdsStill _ _) h
  | setref => exact request_holdsStill setrefWork_holdsStill h
  | openDay => exact request_holdsStill (fun _ u => openDayWork_holdsStill u) h
  | install => exact request_keeps_painter installWork_painter h
  | remove => exact request_keeps_painter removeWork_painter h
  | tick => exact request_holdsStill tickWork_holdsStill h
  | release n => exact execRelease_holdsStill h
  | heartbeat => exact request_holdsStill (fun _ u => by rw [State.ack_painter]; exact u.reloadFeed_holdsStill) h
  | watch => exact request_holdsStill watchWork_holdsStill h
  | feedWatchExpiry => cases h; exact s.settled_holdsStill.trans s.settled.expire_holdsStill
  | heatScanStep => cases h; exact s.settled_holdsStill.trans s.settled.scanStep_holdsStill
  | map => exact request_holdsStill mapWork_holdsStill h
  | unmap => exact request_holdsStill unmapWork_holdsStill h
  | mflush => exact request_holdsStill mflushWork_holdsStill h
  | settext => exact request_holdsStill settextWork_holdsStill h
  | setpal => exact request_holdsStill setpalWork_holdsStill h
  | band => exact request_holdsStill bandWork_holdsStill h
  | showBand => exact request_holdsStill showWork_holdsStill h
  | tapetext => exact request_keeps_painter tapetextWork_painter h
  | paint => exact request_holdsStill (by exact fun _ _ => ⟨rfl, id⟩) h
  | query | dflush | dprobe | mpurge | discard | mprobe | mfind | setattr | heatcfg | blink | tapespeed =>
    exact request_keeps_painter (by exact fun _ _ => rfl) h
  | curtainRelease k => cases h; exact s.settled_holdsStill.trans (s.settled.releaseStep_holdsStill k)
  | rasterReading => cases h; exact s.settled_holdsStill.trans s.settled.readFrame_holdsStill
  | frameStart | bandClear k | taking => cases hc

/-- Every command keeps the law of the second step. -/
theorem exec_takingLawful {c : Instr} {s t : State} (h : exec c s = .next t) (hs : s.painter.TakingLawful) :
    t.painter.TakingLawful := by
  by_cases hc : writesCells c = true
  · cases c with
    | frameStart => cases h; exact State.startFrame_takingLawful (s.settled_holdsStill.taking hs)
    | bandClear k => cases h; exact State.clearStep_takingLawful k (s.settled_holdsStill.taking hs)
    | taking => exact execTaking_takingLawful hs h
    | _ => cases hc
  · exact (exec_holdsStill h (Bool.not_eq_true _ ▸ hc)).taking hs

/-- So does every step: with no command waiting there is none. -/
theorem step_takingLawful {s t : State} (h : step s = .next t) (hs : s.painter.TakingLawful) : t.painter.TakingLawful := by
  unfold step at h
  split at h
  · cases h
    exact hs
  · rename_i c rest _
    exact exec_takingLawful (s := { s with pending := rest }) h hs

end Sys2Proof.Machine

open Sys2Proof Sys2Proof.Machine

/-- Settles O54: every step makes a chain of elementary changes of the screen's parts, each of which keeps the law of the Dirty List,
and keeps the law of the second step. -/
theorem dirtyListStaysLawful : Obligations.DirtyListStaysLawful := fun _ _ hs h =>
  have ⟨hscreen, htaking⟩ := State.dirtyLawful_iff.mp hs
  State.dirtyLawful_iff.mpr
    ⟨(step_redraws h).keeps (fun _ _ hc => hc.keeps_dirtyLawful) hscreen, step_takingLawful h htaking⟩

/-- Settles O49: of the commands that write cells, a frame start makes only the fill that is owed, and outside frame-start work a clear
and a taking do nothing. -/
theorem cellStoreHoldsStill : Obligations.CellStoreHoldsStill := by
  intro c s t h hne
  by_cases hc : writesCells c = true
  · cases c with
    | frameStart =>
      cases h
      refine .inl ⟨rfl, ?_⟩
      by_contra hfill
      have hkept := s.settled.startFrame_cells (s.settled_fillOwed.trans (Bool.not_eq_true _ ▸ hfill))
      exact hne (hkept.trans s.settled_holdsStill.cells)
    | bandClear k =>
      cases h
      refine .inr ⟨.inl ⟨k, rfl⟩, fun hidle => hne ?_⟩
      rw [State.clearStep_of_not_clearing (by rw [State.settled_work, hidle]; nofun)]
      exact s.settled_holdsStill.cells
    | taking =>
      refine .inr ⟨.inr rfl, fun hidle => hne ?_⟩
      cases (execTaking_of_idle hidle).symm.trans h
      rfl
    | _ => cases hc
  · exact absurd (exec_holdsStill h (Bool.not_eq_true _ ▸ hc)).cells hne
end

section
/-! SUPPORT. Where the Painter's work stands, and the Painter's first and third steps; RESET, and the settings of one clamped value. -/

namespace Sys2Proof.Machine

open Sys2Proof

/-! ### Where the work stands (R127, R129, R132) -/

theorem openable_iff {b : Band} : openable b = true ↔ b.curtain = .curtained ∧ b.count = 0 ∧ b.clearPending = false := by
  simp [openable, and_assoc]

theorem openable_eq_false_iff {b : Band} :
    openable b = false ↔ ¬(b.curtain = .curtained ∧ b.count = 0 ∧ b.clearPending = false) := by
  rw [← openable_iff, Bool.not_eq_true]

/-- The third step owes an opening to the bands that can be opened (R132). -/
theorem thirdLooks_eq (bands : Table 4 Band) : thirdLooks bands = bands.map (fun b : Band =>
    if b.curtain = Curtain.curtained ∧ b.count = 0 ∧ b.clearPending = false then .owed else .mayLook) := by
  simp only [thirdLooks, lookOf, openable_iff]

/-- In the third step, a band that can be opened no more owes nothing. -/
theorem keepLooks_openable (looks : Table 4 Look) (bands : Table 4 Band) :
    keepLooks looks bands openable = Table.ofFn (fun k =>
      if looks.get k = .owed ∧ ¬((bands.get k).curtain = Curtain.curtained ∧ (bands.get k).count = 0
        ∧ (bands.get k).clearPending = false) then .mayLook else looks.get k) := by
  simp only [keepLooks, openable_eq_false_iff]

theorem clearsDone_iff {looks : Table 4 Look} {bands : Table 4 Band} :
    clearsDone looks bands = true ↔ ∀ k, looks.get k = .owed → (bands.get k).clearPending = false := allDone_iff

/-- No clear is owed exactly when none is once the bands with no clear pending owe nothing. -/
theorem clearsDone_iff_keepLooks {looks : Table 4 Look} {bands : Table 4 Band} :
    clearsDone looks bands = true ↔ ∀ k, (keepLooks looks bands (fun b => b.clearPending)).get k ≠ .owed := by
  rw [clearsDone_iff]
  refine forall_congr' fun k => ?_
  rw [keepLooks_get]
  split
  · rename_i h
    simp [h]
  · rename_i h
    rw [not_and] at h
    exact ⟨fun hk howed => h howed (hk howed), fun hk howed => absurd howed hk⟩

/-- The second step stops where its budget is counted or the list is empty (R129). -/
theorem PaintWork.update_taking_of_stop {budget counted : Nat} {dirty : List EntryIx} (h : budget ≤ counted ∨ dirty = [])
    (bands : Table 4 Band) : PaintWork.update bands dirty (.taking budget counted) = .releasing (thirdLooks bands) := if_pos h

/-- In the first step, the first moment with no clear owed and an empty list is kept (assumption log 10). -/
theorem PaintWork.update_clearing_none (bands : Table 4 Band) (dirty : List EntryIx) (looks : Table 4 Look) :
    PaintWork.update bands dirty (.clearing looks none) = .clearing (keepLooks looks bands (fun b => b.clearPending))
      (if clearsDone looks bands = true ∧ dirty = [] then some (thirdLooks bands) else none) := rfl

/-- The work is done outside it, and where the third step owes no opening. -/
theorem State.workDone_iff {s : State} : s.workDone = true ↔ s.painter.work = .idle ∨
    ∃ looks, s.releaseLooks = some looks ∧ allDone looks s.bands openable = true := by
  unfold State.workDone State.releaseLooks
  cases s.painter.work with
  | clearing first passed => cases passed <;> simp
  | idle | taking budget counted | releasing looks => simp

/-- The third step looks from the end of the second, or from the moment of the first at which it had nothing to take. -/
theorem State.releaseLooks_eq_some {s : State} {looks : Table 4 Look} : s.releaseLooks = some looks ↔
    s.painter.work = .releasing looks ∨ ∃ first, s.painter.work = .clearing first (some looks) := by
  unfold State.releaseLooks
  cases s.painter.work <;> simp

/-! ### Clears and openings (R128, R132) -/

/-- With no marks still to come, a BAND_CLEAR is a clear in the state as it stands. -/
theorem exec_bandClear {s : State} (h : s.owed = none) (k : BandIx) : exec (.bandClear k) s = .next (s.clearStep k) :=
  congrArg (fun t : State => Host.Outcome.next (t.clearStep k)) (State.settled_of_none h)

/-- With no marks still to come, a CURTAIN_RELEASE is an opening in the state as it stands. -/
theorem exec_curtainRelease {s : State} (h : s.owed = none) (k : BandIx) :
    exec (.curtainRelease k) s = .next (s.releaseStep k) :=
  congrArg (fun t : State => Host.Outcome.next (t.releaseStep k)) (State.settled_of_none h)

/-- The rows of band k take its background, and its clear pending is cleared (R128). -/
def State.wiped (k : BandIx) (s : State) : State :=
  (s.setCells (s.painter.cells.fillRows (s.bands.get k).top (s.bands.get k).height (Cell.blank (s.bands.get k).background))).modifyBand
    k (fun b => { b with clearPending := false })

/-- A band that shows a board is wiped, and its LIVE entries are swept. -/
theorem State.clearBand_of_board {s : State} {k : BandIx} {board : BoardIx} (h : (s.bands.get k).shows = .board board) :
    s.clearBand k = (s.wiped k).swept k := by
  rw [← State.sweepBand_eq]
  simp only [State.clearBand, h]
  rfl

/-- Any other band is wiped, and nothing else. -/
theorem State.clearBand_of_no_board {s : State} {k : BandIx}
    (h : (s.bands.get k).shows = .nothing ∨ (s.bands.get k).shows = .tape) : s.clearBand k = s.wiped k := by
  rcases h with h | h
  · simp only [State.clearBand, h]
    rfl
  · simp only [State.clearBand, h]
    rfl

/-- A band that gives the first step no cause, or that it has looked at, is not cleared. -/
theorem State.clearStep_of_no_cause {s : State} {k : BandIx} {looks : Table 4 Look} {passed : Option (Table 4 Look)}
    (hw : s.painter.work = .clearing looks passed) (h : looks.get k = .looked ∨ (s.bands.get k).clearPending = false) :
    s.clearStep k = s := by
  simp only [State.clearStep, hw]
  refine if_neg ?_
  rintro ⟨hl, hp⟩
  rcases h with h | h
  · exact hl h
  · exact Bool.false_ne_true (h.symm.trans hp)

/-- A band whose clear pending the first step finds set is cleared. -/
theorem State.clearStep_of_cause {s : State} {k : BandIx} {looks : Table 4 Look} {passed : Option (Table 4 Look)}
    (hw : s.painter.work = .clearing looks passed) (hl : looks.get k ≠ .looked) (hp : (s.bands.get k).clearPending = true) :
    s.clearStep k = ((s.clearBand k).setWork (.clearing (looks.set k .looked) none)).updateWork := by
  simp only [State.clearStep, hw]
  exact if_pos ⟨hl, hp⟩

/-- Before the second step has stopped no band is opened. -/
theorem State.releaseStep_of_none {s : State} (h : s.releaseLooks = none) (k : BandIx) : s.releaseStep k = s := by
  rw [State.releaseStep, h]

/-- A band that can be opened, and that the third step has not looked at, is opened. -/
theorem State.releaseStep_of_cause {s : State} {k : BandIx} {looks : Table 4 Look} (h : s.releaseLooks = some looks)
    (hl : looks.get k ≠ .looked) (ho : openable (s.bands.get k) = true) : s.releaseStep k =
      (s.modifyBand k (fun b => { b with curtain := .opened })).setWork (.releasing (looks.set k .looked)) := by
  simp only [State.releaseStep, h]
  exact if_pos ⟨hl, ho⟩

/-- Any other band is left as it is. -/
theorem State.releaseStep_of_no_cause {s : State} {k : BandIx} {looks : Table 4 Look} (h : s.releaseLooks = some looks)
    (hno : looks.get k = .looked ∨ openable (s.bands.get k) = false) : s.releaseStep k = s := by
  simp only [State.releaseStep, h]
  refine if_neg ?_
  rintro ⟨hl, ho⟩
  rcases hno with hno | hno
  · exact hl hno
  · exact Bool.false_ne_true (hno.symm.trans ho)

/-! ### Requests without fields (R85) -/

theorem noFields_nil : noFields [] = .ok () := rfl

theorem noFields_of_ne_nil {p : List Byte} (h : p ≠ []) : noFields p = .error .badLength :=
  if_neg (mt List.length_eq_zero_iff.mp h)

end Sys2Proof.Machine

open Sys2Proof Sys2Proof.Machine

/-- Settles O46: a clear in the first step, the states in which no clear and no opening comes about, and an opening in the third. -/
theorem bandClearAndCurtainRelease : Obligations.BandClearAndCurtainRelease := by
  refine ⟨?_, fun s k howed => ⟨fun hw => ?_, fun hw => ?_⟩, fun s k looks howed hw => ?_⟩
  · rintro s u k b looks passed hw rfl howed
    rw [exec_bandClear howed]
    refine ⟨fun hno => congrArg _ (State.clearStep_of_no_cause hw hno), fun hl hp hu => ?_⟩
    rw [State.clearStep_of_cause hw hl hp]
    subst hu
    refine ⟨fun ⟨board, hb⟩ => ?_, fun hb => ?_⟩
    · rw [State.clearBand_of_board hb]
      rfl
    · rw [State.clearBand_of_no_board hb]
      rfl
  · rw [exec_bandClear howed, State.clearStep_of_not_clearing hw]
  · have hnone : s.releaseLooks = none := by
      rcases hw with hw | ⟨_, hw⟩ | ⟨_, _, hw⟩ <;> rw [State.releaseLooks, hw]
    rw [exec_curtainRelease howed, State.releaseStep_of_none hnone]
  · have hlooks := State.releaseLooks_eq_some.mpr hw
    rw [exec_curtainRelease howed]
    refine ⟨fun hl hcurtain hcount hp => ?_, fun hno => ?_, fun hl => ?_⟩
    · rw [State.releaseStep_of_cause hlooks hl (openable_iff.mpr ⟨hcurtain, hcount, hp⟩)]
      rfl
    · rw [State.releaseStep_of_no_cause hlooks (.inr (openable_eq_false_iff.mpr ?_))]
      rintro ⟨hcurtain, hcount, hp⟩
      rcases hno with h | h | h
      · omega
      · exact Bool.false_ne_true (hp.symm.trans h)
      · cases hcurtain.symm.trans h
    · rw [State.releaseStep_of_no_cause hlooks (.inl hl)]

/-- Settles O60: where the work stands after a change, from each place it can stand in; when it is done; when a taking falls. -/
theorem painterWorkFollows : Obligations.PainterWorkFollows := by
  refine ⟨fun s => ⟨s.painter.work.update s.bands s.painter.dirty, rfl, fun hw => ?_, fun budget counted hw => ⟨fun hstop => ?_,
    fun hlt hne => ?_⟩, fun looks hw => ?_, fun looks passed first hw hfirst => ?_⟩, fun s => ?_, fun s hw => ?_, fun s => ?_⟩
  · rw [hw, PaintWork.update_idle]
  · rw [hw, PaintWork.update_taking_of_stop hstop, thirdLooks_eq]
  · exact PaintWork.update_eq_taking_iff.mpr ⟨hw, hlt, hne⟩
  · rw [hw, PaintWork.update, keepLooks_openable]
  · have hkeep : keepLooks looks s.bands (fun b => b.clearPending) = first := hfirst.symm
    have hdone : clearsDone looks s.bands = true ↔ ∀ k, first.get k ≠ .owed := hkeep ▸ clearsDone_iff_keepLooks
    rw [hw]
    refine ⟨fun third hpassed => ?_, fun hpassed hnone hempty => ?_, fun hpassed hsome => ?_⟩
    · rw [hpassed, PaintWork.update, hkeep, keepLooks_openable]
    · rw [hpassed, PaintWork.update_clearing_none, hkeep, if_pos ⟨hdone.mpr hnone, hempty⟩, thirdLooks_eq]
    · rw [hpassed, PaintWork.update_clearing_none, hkeep, if_neg]
      rintro ⟨hclear, hempty⟩
      rcases hsome with ⟨k, hk⟩ | hne
      · exact hdone.mp hclear k hk
      · exact hne hempty
  · simp only [State.workDone_iff, State.releaseLooks_eq_some, allDone_iff, openable_eq_false_iff]
  · rcases hw with hw | ⟨looks, hw⟩
    · exact execTaking_of_idle hw
    · rw [exec, execTaking, hw]
  · rw [State.mayTake_iff]
    simp only [clearsDone_iff, and_comm]

/-- Settles O7: an empty payload is accepted and resets every block, and any other is refused for its length. -/
theorem resetMessage : Obligations.ResetMessage := fun _ _ h =>
  ⟨fun hp => request_ok h (hp ▸ noFields_nil), fun hp => request_error h (noFields_of_ne_nil hp)⟩

/-- Settles O40: each of the three requests is read as its value clamped, and its work is the write of that value. -/
theorem clampedSettings : Obligations.ClampedSettings := fun _ value hv =>
  ⟨fun h => request_ok h (parse_one 1 64 value hv), fun h => request_ok h (parse_one 1 4 value hv),
    fun h => request_ok h (parse_one 2 30 value hv)⟩
end

section
/-! SUPPORT. The writing of a list of cells, and the cells that a field's characters are expanded onto. -/

namespace Sys2Proof.Machine

open Sys2Proof

/-! ### Written cells (R134) -/

/-- A write changes the cell at its row and column, and no other. -/
theorem CellStore.get_write (store : CellStore) (x : Nat × Nat × Cell) (row : Fin 36) (column : Fin 96) :
    ((store.write x).get row).get column =
      if x.1 = row.val ∧ x.2.1 = column.val then x.2.2 else (store.get row).get column := by
  unfold CellStore.write
  split
  · split
    · rw [Table.get_modify]
      by_cases hr : x.1 = row.val
      · simp [Table.get_set, Fin.ext_iff, hr, eq_comm (a := column.val)]
      · rw [if_neg (fun he => hr (congrArg Fin.val he).symm), if_neg (fun he => hr he.1)]
    · rw [if_neg]
      omega
  · rw [if_neg]
    omega

theorem CellStore.writeAll_concat (store : CellStore) (xs : List (Nat × Nat × Cell)) (x : Nat × Nat × Cell) :
    store.writeAll (xs ++ [x]) = (store.writeAll xs).write x := by
  simp [CellStore.writeAll]

/-- A cell that is not in the list keeps its contents. -/
theorem CellStore.get_writeAll_of_not_mem {xs : List (Nat × Nat × Cell)} {row : Fin 36} {column : Fin 96}
    (h : ∀ x ∈ xs, ¬(x.1 = row.val ∧ x.2.1 = column.val)) (store : CellStore) :
    ((store.writeAll xs).get row).get column = (store.get row).get column := by
  induction xs using List.reverseRecOn with
  | nil => rfl
  | append_singleton xs x ih =>
    rw [CellStore.writeAll_concat, CellStore.get_write, if_neg (h x (by simp))]
    exact ih fun y hy => h y (List.mem_append_left _ hy)

/-- A cell that is in the list, with one contents only, takes it. -/
theorem CellStore.get_writeAll_of_mem {xs : List (Nat × Nat × Cell)} {row : Fin 36} {column : Fin 96} {c : Cell}
    (hmem : (row.val, column.val, c) ∈ xs) (hone : ∀ x ∈ xs, x.1 = row.val ∧ x.2.1 = column.val → x.2.2 = c)
    (store : CellStore) : ((store.writeAll xs).get row).get column = c := by
  induction xs using List.reverseRecOn with
  | nil => cases hmem
  | append_singleton xs x ih =>
    rw [CellStore.writeAll_concat, CellStore.get_write]
    split
    · rename_i hx
      exact hone x (by simp) hx
    · rename_i hx
      refine ih ?_ fun y hy => hone y (List.mem_append_left _ hy)
      rcases List.mem_append.mp hmem with hm | hm
      · exact hm
      · rw [List.mem_singleton] at hm
        exact absurd (by rw [← hm]; exact ⟨rfl, rfl⟩) hx

/-! ### Blocks of cells (R134, R135) -/

theorem widthMul_pos (size : Fin 4) : 0 < widthMul size := by
  unfold widthMul
  split <;> omega

theorem heightMul_pos (size : Fin 4) : 0 < heightMul size := by
  unfold heightMul
  split <;> omega

/-- The cells of a character are those of its block. -/
theorem mem_charCells {b : Band} {row column : Nat} {code : Byte} {attr : AttrIx} {x : Nat × Nat × Cell} :
    x ∈ charCells b row column code attr ↔ ∃ dr dc, dr < heightMul b.size ∧ dc < widthMul b.size ∧
      (b.top + row * heightMul b.size + dr, column * widthMul b.size + dc, ⟨code, attr, partAt b.size dr dc⟩) = x := by
  simp only [charCells, List.mem_flatMap, List.mem_map, List.mem_range]
  constructor
  · rintro ⟨dr, hr, dc, hc, h⟩
    exact ⟨dr, dc, hr, hc, h⟩
  · rintro ⟨dr, dc, hr, hc, h⟩
    exact ⟨dr, hr, dc, hc, h⟩

/-- A run's cells are those of its characters, one logical column after the other. -/
theorem mem_runCells {b : Band} {row column : Nat} {chars : List (Byte × AttrIx)} {x : Nat × Nat × Cell} :
    x ∈ runCells b row column chars ↔
      ∃ (j : Nat) (h : j < chars.length), x ∈ charCells b row (column + j) chars[j].1 chars[j].2 := by
  induction chars generalizing column with
  | nil => simp [runCells]
  | cons ch rest ih =>
    obtain ⟨code, attr⟩ := ch
    rw [runCells, List.mem_append, ih]
    constructor
    · rintro (h | ⟨j, hj, h⟩)
      · exact ⟨0, Nat.zero_lt_succ _, h⟩
      · exact ⟨j + 1, Nat.succ_lt_succ hj, by rwa [Nat.add_assoc, Nat.add_comm 1 j] at h⟩
    · rintro ⟨_ | j, hj, h⟩
      · exact .inl h
      · exact .inr ⟨j, Nat.lt_of_succ_lt_succ hj, by rwa [Nat.add_assoc, Nat.add_comm 1 j]⟩

/-- A cell of a character lies in the logical row and column of the character, with the part of its place there. -/
theorem charCells_place {b : Band} {row column : Nat} {code : Byte} {attr : AttrIx} {x : Nat × Nat × Cell}
    (h : x ∈ charCells b row column code attr) : (x.1 - b.top) / heightMul b.size = row
      ∧ x.2.1 / widthMul b.size = column
      ∧ x.2.2 = ⟨code, attr, partAt b.size ((x.1 - b.top) % heightMul b.size) (x.2.1 % widthMul b.size)⟩ := by
  obtain ⟨dr, dc, hr, hc, rfl⟩ := mem_charCells.mp h
  have htop : b.top + row * heightMul b.size + dr - b.top = row * heightMul b.size + dr := by omega
  obtain ⟨hrow, hdr⟩ := (Nat.div_mod_unique (heightMul_pos b.size)).mpr
    ⟨show dr + heightMul b.size * row = row * heightMul b.size + dr by rw [Nat.mul_comm, Nat.add_comm], hr⟩
  obtain ⟨hcolumn, hdc⟩ := (Nat.div_mod_unique (widthMul_pos b.size)).mpr
    ⟨show dc + widthMul b.size * column = column * widthMul b.size + dc by rw [Nat.mul_comm, Nat.add_comm], hc⟩
  dsimp only
  rw [htop]
  rw [hrow, hdr, hcolumn, hdc]
  exact ⟨rfl, rfl, rfl⟩

/-- The cell at a physical row and column is one of the character's at their logical row and column. -/
theorem mem_charCells_self {b : Band} {row : Nat} (h : b.top ≤ row) (column : Nat) (code : Byte) (attr : AttrIx) :
    (row, column, ⟨code, attr, partAt b.size ((row - b.top) % heightMul b.size) (column % widthMul b.size)⟩) ∈
      charCells b ((row - b.top) / heightMul b.size) (column / widthMul b.size) code attr := by
  refine mem_charCells.mpr ⟨(row - b.top) % heightMul b.size, column % widthMul b.size, Nat.mod_lt _ (heightMul_pos _),
    Nat.mod_lt _ (widthMul_pos _), ?_⟩
  have hrow := Nat.div_add_mod' (row - b.top) (heightMul b.size)
  have hcolumn := Nat.div_add_mod' column (widthMul b.size)
  rw [Nat.add_assoc, hrow, hcolumn, Nat.add_sub_cancel' h]

/-- A field's cells lie in the band's rows and left of column 96, each in the block of one of its characters. -/
theorem mem_fieldCells {b : Band} {row column : Nat} {chars : List (Byte × AttrIx)} {x : Nat × Nat × Cell} :
    x ∈ fieldCells b row column chars ↔ (b.top ≤ x.1 ∧ x.1 < b.top + b.height ∧ x.2.1 < 96) ∧
      ∃ (j : Nat) (h : j < chars.length), x ∈ charCells b row (column + j) chars[j].1 chars[j].2 := by
  rw [fieldCells, List.mem_filter, mem_runCells, clipped, decide_eq_true_eq, and_comm]

end Sys2Proof.Machine

open Sys2Proof Sys2Proof.Machine

/-- Settles O48: the cell at a character's place is written once, with its part, and a cell at no character's place is not written. -/
theorem fieldExpandsOntoCells : Obligations.FieldExpandsOntoCells := by
  intro cells b row column chars pr pc
  refine ⟨fun j hj htop hbottom hrow hcolumn => ?_, fun hno => ?_⟩
  · apply CellStore.get_writeAll_of_mem
    · refine mem_fieldCells.mpr ⟨⟨htop, hbottom, pc.isLt⟩, j, hj, ?_⟩
      have hself := mem_charCells_self htop pc.val chars[j].1 chars[j].2
      rwa [hrow, hcolumn] at hself
    · intro x hx hplace
      obtain ⟨-, i, hi, hmem⟩ := mem_fieldCells.mp hx
      obtain ⟨-, hcol, hcell⟩ := charCells_place hmem
      obtain rfl : i = j := by
        rw [hplace.2, hcolumn] at hcol
        omega
      rw [hcell, hplace.1, hplace.2]
  · refine CellStore.get_writeAll_of_not_mem (fun x hx hplace => ?_) cells
    obtain ⟨⟨htop, hbottom, -⟩, i, hi, hmem⟩ := mem_fieldCells.mp hx
    obtain ⟨hrow, hcolumn, -⟩ := charCells_place hmem
    rw [hplace.1] at htop hbottom hrow
    rw [hplace.2] at hcolumn
    omega
end

section
/-! SUPPORT. A taking in closed form: what a render and an erasing leave of the whole state, and where the second step goes on. -/

namespace Sys2Proof.Machine

open Sys2Proof

/-! ### Cells of an entry, band by band (R130, R131) -/

/-- The cells after a walk over bands that writes cells into each band in which the entry appears. -/
def paintBands (f : Field) (bands : Table 4 Band) (xs : Band → List (Nat × Nat × Cell)) (l : List BandIx) (cells : CellStore) :
    CellStore :=
  l.foldl (fun cells k => if appearsIn f (bands.get k) then cells.writeAll (xs (bands.get k)) else cells) cells

theorem paintBands_cons (f : Field) (bands : Table 4 Band) (xs : Band → List (Nat × Nat × Cell)) (k : BandIx) (l : List BandIx)
    (cells : CellStore) : paintBands f bands xs (k :: l) cells =
      paintBands f bands xs l (if appearsIn f (bands.get k) then cells.writeAll (xs (bands.get k)) else cells) := rfl

/-- An entry that appears in no band has no cells. -/
theorem paintBands_of_absent {f : Field} {bands : Table 4 Band} (h : appears bands f = false)
    (xs : Band → List (Nat × Nat × Cell)) (l : List BandIx) (cells : CellStore) : paintBands f bands xs l cells = cells := by
  have habsent : ∀ k, appearsIn f (bands.get k) = false := Table.any_eq_false.mp h
  simp [paintBands, habsent]

/-- The walk sees of the entry and of the bands only where the entry appears, and what is written there. -/
theorem paintBands_congr {f g : Field} {bands others : Table 4 Band} {xs ys : Band → List (Nat × Nat × Cell)}
    (ha : ∀ k, appearsIn f (bands.get k) = appearsIn g (others.get k)) (hx : ∀ k, xs (bands.get k) = ys (others.get k))
    (l : List BandIx) (cells : CellStore) : paintBands f bands xs l cells = paintBands g others ys l cells := by
  simp only [paintBands, ha, hx]

/-- The cells of a field in a band do not depend on the band's count. -/
theorem fieldCells_count (b : Band) (count row column : Nat) (chars : List (Byte × AttrIx)) :
    fieldCells { b with count := count } row column chars = fieldCells b row column chars := by
  have hrun : ∀ column, runCells { b with count := count } row column chars = runCells b row column chars := by
    induction chars with
    | nil => exact fun _ => rfl
    | cons ch rest ih =>
      intro column
      rw [runCells, runCells, ih]
      rfl
  rw [fieldCells, fieldCells, hrun]
  rfl

/-! ### To render (R130) -/

/-- The writing of an entry into a band touches the entry's mark, the band's count and cells, and nothing else. -/
theorem State.writeInto_frame (i : EntryIx) (chars : List (Byte × AttrIx)) (s : State) (k : BandIx) : s.writeInto i chars k =
    { s with
      fields := (s.writeInto i chars k).fields
      bands := (s.writeInto i chars k).bands
      painter := { s.painter with cells := (s.writeInto i chars k).painter.cells } } := by
  unfold State.writeInto State.clearUnpainted
  dsimp only
  split
  · split <;> rfl
  · rfl

theorem State.foldl_writeInto_frame (i : EntryIx) (chars : List (Byte × AttrIx)) (l : List BandIx) (s : State) :
    l.foldl (State.writeInto i chars) s = { s with
      fields := (l.foldl (State.writeInto i chars) s).fields
      bands := (l.foldl (State.writeInto i chars) s).bands
      painter := { s.painter with cells := (l.foldl (State.writeInto i chars) s).painter.cells } } := by
  induction l generalizing s with
  | nil => rfl
  | cons k l ih =>
    rw [List.foldl_cons, ih, s.writeInto_frame i chars k]

/-- The entry keeps its contents but for its marks. -/
theorem State.writeInto_field (i : EntryIx) (chars : List (Byte × AttrIx)) (s : State) (k : BandIx) :
    (s.writeInto i chars k).fields.get i =
      { s.fields.get i with unpainted := ((s.writeInto i chars k).fields.get i).unpainted } := by
  have hfields : (s.writeInto i chars k).fields = _ := congrArg Screen.fields (s.writeInto_screen i chars k)
  rw [hfields, Table.get_modify_self]

/-- Every band keeps its contents but for its count. -/
theorem State.writeInto_band (i : EntryIx) (chars : List (Byte × AttrIx)) (s : State) (k j : BandIx) :
    (s.writeInto i chars k).bands.get j =
      { s.bands.get j with count := ((s.writeInto i chars k).bands.get j).count } := by
  have hbands : (s.writeInto i chars k).bands = _ := congrArg Screen.bands (s.writeInto_screen i chars k)
  rw [hbands, Table.get_modify]
  split
  · subst j; rfl
  · rfl

theorem State.writeInto_cells (i : EntryIx) (chars : List (Byte × AttrIx)) (s : State) (k : BandIx) :
    (s.writeInto i chars k).painter.cells = if appearsIn (s.fields.get i) (s.bands.get k) then
      s.painter.cells.writeAll (fieldCells (s.bands.get k) (s.fields.get i).row (s.fields.get i).column chars)
    else s.painter.cells := by
  unfold State.writeInto
  dsimp only
  split
  · rw [State.clearUnpainted_eq]
    rfl
  · rfl

/-- The cells of the bands visited are written in turn. -/
theorem State.foldl_writeInto_cells (i : EntryIx) (chars : List (Byte × AttrIx)) (l : List BandIx) (s : State) :
    (l.foldl (State.writeInto i chars) s).painter.cells = paintBands (s.fields.get i) s.bands
      (fun b => fieldCells b (s.fields.get i).row (s.fields.get i).column chars) l s.painter.cells := by
  induction l generalizing s with
  | nil => rfl
  | cons k l ih =>
    rw [List.foldl_cons, ih, s.writeInto_field i chars k, State.writeInto_cells, paintBands_cons]
    refine paintBands_congr (fun j => ?_) (fun j => ?_) l _
    · rw [s.writeInto_band i chars k j]
      rfl
    · rw [s.writeInto_band i chars k j]
      exact fieldCells_count _ _ _ _ _

/-- The rendering of an entry, in the whole state: its cells in the bands it appears in, and its marks there counted down (R130). -/
theorem State.renderEntry_eq (i : EntryIx) (s : State) : s.renderEntry i = { s with
    fields := s.fields.modify i (fun f => { f with
      unpainted := Table.ofFn (fun k => f.unpainted.get k && !appearsIn f (s.bands.get k)) })
    bands := lowerCounts (fun k => appearsIn (s.fields.get i) (s.bands.get k) && (s.fields.get i).unpainted.get k) s.bands
    painter := { s.painter with cells := paintBands (s.fields.get i) s.bands (fun b =>
      fieldCells b (s.fields.get i).row (s.fields.get i).column (s.fieldChars (s.fields.get i))) allBands s.painter.cells } } := by
  have hfields : (s.renderEntry i).fields = _ := congrArg Screen.fields (s.renderEntry_screen i)
  have hbands : (s.renderEntry i).bands = _ := congrArg Screen.bands (s.renderEntry_screen i)
  rw [State.renderEntry, State.foldl_writeInto_frame, State.foldl_writeInto_cells]
  congr 1

/-! ### To erase (R131) -/

/-- The erasing of an entry from bands writes its cells there, and nothing else. -/
theorem State.foldl_eraseFrom (f : Field) (l : List BandIx) (s : State) : l.foldl (State.eraseFrom f) s =
    s.setCells (paintBands f s.bands (fun b => erasedCells b f) l s.painter.cells) := by
  induction l generalizing s with
  | nil => rfl
  | cons k l ih =>
    rw [List.foldl_cons, ih, State.eraseFrom, paintBands_cons]
    split <;> rfl

/-- The erasing of an entry, in the whole state: its cells blanked, and the entry FREE (R131). -/
theorem State.eraseCells_eq (i : EntryIx) (s : State) : s.eraseCells i = { s with
    fields := s.fields.set i Field.free
    painter := { s.painter with
      cells := paintBands (s.fields.get i) s.bands (fun b => erasedCells b (s.fields.get i)) allBands s.painter.cells } } := by
  rw [State.eraseCells, State.foldl_eraseFrom]
  rfl

/-! ### The table of R129 -/

theorem State.dealWith_of_live {s : State} {i : EntryIx} (hs : (s.fields.get i).state = .live)
    (ha : appears s.bands (s.fields.get i) = true) : s.dealWith i = (s.renderEntry i, 1) := by
  simp only [State.dealWith, hs, ha]

theorem State.dealWith_of_absent {s : State} {i : EntryIx} (hs : (s.fields.get i).state = .live)
    (ha : appears s.bands (s.fields.get i) = false) : s.dealWith i = (s, 0) := by
  simp only [State.dealWith, hs, ha]

theorem State.dealWith_of_free {s : State} {i : EntryIx} (hs : (s.fields.get i).state = .free) : s.dealWith i = (s, 0) := by
  simp only [State.dealWith, hs]

/-- An ERASING entry is erased where it appears, which may be nowhere, and counted if it appears. -/
theorem State.dealWith_of_erasing {s : State} {i : EntryIx} (hs : (s.fields.get i).state = .erasing) :
    s.dealWith i = (s.eraseCells i, if appears s.bands (s.fields.get i) then 1 else 0) := by
  cases ha : appears s.bands (s.fields.get i) with
  | true =>
    simp only [State.dealWith, hs, ha]
    rfl
  | false =>
    rw [State.eraseCells_eq, paintBands_of_absent ha]
    simp only [State.dealWith, hs, ha]
    rfl

/-- What is done with an entry does not depend on where the work stands. -/
theorem State.dealWith_setWork (w : PaintWork) (i : EntryIx) (s : State) :
    (s.setWork w).dealWith i = ((s.dealWith i).1.setWork w, (s.dealWith i).2) := by
  cases hs : (s.fields.get i).state with
  | live =>
    cases ha : appears s.bands (s.fields.get i) with
    | true =>
      rw [State.dealWith_of_live hs ha, State.dealWith_of_live (s := s.setWork w) hs ha, State.renderEntry_eq, State.renderEntry_eq]
      rfl
    | false => rw [State.dealWith_of_absent hs ha, State.dealWith_of_absent (s := s.setWork w) hs ha]
  | erasing =>
    rw [State.dealWith_of_erasing hs, State.dealWith_of_erasing (s := s.setWork w) hs, State.eraseCells_eq, State.eraseCells_eq]
    rfl
  | free => rw [State.dealWith_of_free hs, State.dealWith_of_free (s := s.setWork w) hs]

/-! ### The entry at the head (R129) -/

/-- The entry at the head as it leaves the list: its dirty mark cleared, and all else kept. -/
theorem State.unqueue_field (i : EntryIx) (rest : List EntryIx) (s : State) :
    (s.unqueue i rest).fields.get i = { s.fields.get i with dirty := false } := by
  rw [State.unqueue, Table.get_modify_self]

/-- The entry at the head is written once as it leaves the list and is rendered. -/
theorem State.renderEntry_unqueue (i : EntryIx) (rest : List EntryIx) (s : State) :
    (s.unqueue i rest).renderEntry i = { s with
      fields := s.fields.set i { s.fields.get i with
        dirty := false
        unpainted := Table.ofFn (fun k =>
          (s.fields.get i).unpainted.get k && !appearsIn (s.fields.get i) (s.bands.get k)) }
      bands := Table.ofFn (fun k =>
        if appearsIn (s.fields.get i) (s.bands.get k) = true ∧ (s.fields.get i).unpainted.get k = true
          then { s.bands.get k with count := (s.bands.get k).count - 1 } else s.bands.get k)
      painter := { s.painter with
        dirty := rest
        cells := paintBands (s.fields.get i) s.bands (fun b =>
          fieldCells b (s.fields.get i).row (s.fields.get i).column (s.fieldChars (s.fields.get i))) allBands
            s.painter.cells } } := by
  have hbands : lowerCounts (fun k => appearsIn (s.fields.get i) (s.bands.get k) && (s.fields.get i).unpainted.get k) s.bands =
      Table.ofFn (fun k =>
        if appearsIn (s.fields.get i) (s.bands.get k) = true ∧ (s.fields.get i).unpainted.get k = true
          then { s.bands.get k with count := (s.bands.get k).count - 1 } else s.bands.get k) := by
    simp only [lowerCounts, Bool.and_eq_true]
  rw [State.renderEntry_eq, State.unqueue_field, ← hbands, State.unqueue, Table.modify, Table.modify, Table.set_set,
    Table.get_set_self]
  rfl

/-- It is written once as it leaves the list and is erased. -/
theorem State.eraseCells_unqueue (i : EntryIx) (rest : List EntryIx) (s : State) :
    (s.unqueue i rest).eraseCells i = { s with
      fields := s.fields.set i Field.free
      painter := { s.painter with
        dirty := rest
        cells := paintBands (s.fields.get i) s.bands (fun b => erasedCells b (s.fields.get i)) allBands s.painter.cells } } := by
  rw [State.eraseCells_eq, State.unqueue_field, State.unqueue, Table.modify, Table.set_set]
  rfl

/-! ### The second step (R129) -/

/-- Where the budget is counted or the list is empty, the second step stops. -/
theorem State.takeOne_of_stop {s : State} {budget counted : Nat} (h : budget ≤ counted ∨ s.painter.dirty = []) :
    s.takeOne budget counted = s.setWork (.releasing (thirdLooks s.bands)) := by
  have hentry : s.takeEntry budget counted = s.setWork (.taking budget counted) := by
    unfold State.takeEntry
    split
    · rfl
    · rename_i hd
      rw [if_pos (h.resolve_right (by rw [hd]; nofun))]
  rw [State.takeOne, hentry, State.updateWork, State.setWork_painter, PaintWork.update_taking_of_stop h]
  rfl

/-- Otherwise the entry at the head leaves the list and is dealt with. -/
theorem State.takeOne_of_head {s : State} {budget counted : Nat} {i : EntryIx} {rest : List EntryIx}
    (hd : s.painter.dirty = i :: rest) (hlt : counted < budget) : s.takeOne budget counted =
      (((s.unqueue i rest).dealWith i).1.setWork
        (.taking budget (counted + ((s.unqueue i rest).dealWith i).2))).updateWork := by
  simp only [State.takeOne, State.takeEntry, hd, if_neg (not_le.mpr hlt)]

/-- A taking does not depend on where the work stood before it. -/
theorem State.takeOne_setWork (w : PaintWork) (budget counted : Nat) (s : State) :
    (s.setWork w).takeOne budget counted = s.takeOne budget counted := by
  by_cases h : budget ≤ counted ∨ s.painter.dirty = []
  · rw [State.takeOne_of_stop h, State.takeOne_of_stop (s := s.setWork w) h]
    rfl
  · rw [not_or, not_le] at h
    obtain ⟨i, rest, hd⟩ := List.exists_cons_of_ne_nil h.2
    have hunqueue : (s.setWork w).unqueue i rest = (s.unqueue i rest).setWork w := rfl
    rw [State.takeOne_of_head hd h.1, State.takeOne_of_head (s := s.setWork w) hd h.1, hunqueue, State.dealWith_setWork]
    rfl

theorem execTaking_of_taking {s : State} {budget counted : Nat} (h : s.painter.work = .taking budget counted) :
    execTaking s = .next (s.takeOne budget counted) := by
  rw [execTaking, h]

theorem execTaking_of_clearing {s : State} {looks : Table 4 Look} {passed : Option (Table 4 Look)}
    (h : s.painter.work = .clearing looks passed) :
    execTaking s = if clearsDone looks s.bands = true then .next (s.takeOne s.painter.budget 0) else .next s := by
  rw [execTaking, h]

end Sys2Proof.Machine

open Sys2Proof Sys2Proof.Machine

/-- Settles O47: the entry at the head is dealt with as the table of R129 says, and the second step begins and stops within its
bounds. -/
theorem takingFromDirtyList : Obligations.TakingFromDirtyList := by
  refine ⟨fun s budget counted rest i f hw hlt hd hf => ⟨fun hs ha => ?_, fun hs ha => ?_, fun hs => ?_⟩,
    fun s looks passed hw hdone => ?_, fun s looks passed k hw hl hp => ?_, fun s budget counted hw hstop => ?_⟩
  · subst hf
    have hfield := s.unqueue_field i rest
    have hdealt := State.dealWith_of_live (s := s.unqueue i rest) (by rw [hfield]; exact hs) (by rw [hfield]; exact ha)
    rw [exec, execTaking_of_taking hw, State.takeOne_of_head hd hlt, hdealt, State.renderEntry_unqueue]
    rfl
  · subst hf
    have hfield := s.unqueue_field i rest
    have hdealt := State.dealWith_of_absent (s := s.unqueue i rest) (by rw [hfield]; exact hs) (by rw [hfield]; exact ha)
    rw [exec, execTaking_of_taking hw, State.takeOne_of_head hd hlt, hdealt]
    rfl
  · subst hf
    have hfield := s.unqueue_field i rest
    have hdealt := State.dealWith_of_erasing (s := s.unqueue i rest) (by rw [hfield]; exact hs)
    rw [exec, execTaking_of_taking hw, State.takeOne_of_head hd hlt, hdealt, State.eraseCells_unqueue, hfield]
    rfl
  · rw [exec, execTaking_of_clearing hw, if_pos (clearsDone_iff.mpr hdone), ← State.takeOne_setWork (.taking s.painter.budget 0)]
    rfl
  · rw [exec, execTaking_of_clearing hw, if_neg]
    exact fun hdone => Bool.false_ne_true ((clearsDone_iff.mp hdone k hl).symm.trans hp)
  · rw [exec, execTaking_of_taking hw, State.takeOne_of_stop hstop, thirdLooks_eq]
    rfl
end

section
/-! SUPPORT. The marks cleared for bands, and BAND in the whole state: its refusals, and what follows once it is accepted. -/

namespace Sys2Proof.Table

/-- Two changes of one thing are one change. -/
theorem modify_modify {n : Nat} {α : Type} (t : Table n α) (i : Fin n) (f g : α → α) :
    (t.modify i f).modify i g = t.modify i (fun a => g (f a)) := by
  simp only [modify, set_set, get_set_self]

end Sys2Proof.Table

namespace Sys2Proof.Machine

open Sys2Proof

/-! ### Marks cleared for bands (R93, R143) -/

/-- Clearing the marks for no band leaves every entry as it is. -/
theorem clearMarksWhere_of_none {p : BandIx → Bool} (h : ∀ k, p k = false) (fields : Table 256 Field) :
    clearMarksWhere p fields = fields := by
  apply Table.ext_get
  intro i
  simp [clearMarksWhere, h]

/-- Clearing the marks for some bands and then for others clears those for either. -/
theorem clearMarksWhere_clearMarksWhere (p q : BandIx → Bool) (fields : Table 256 Field) :
    clearMarksWhere q (clearMarksWhere p fields) = clearMarksWhere (fun k => p k || q k) fields := by
  apply Table.ext_get
  intro i
  simp [clearMarksWhere, Bool.and_assoc]

theorem clearMarksWhere_congr {p q : BandIx → Bool} (h : ∀ k, p k = q k) (fields : Table 256 Field) :
    clearMarksWhere p fields = clearMarksWhere q fields := by
  rw [funext h]

theorem State.clearMarksFor_eq (k : BandIx) (s : State) : s.clearMarksFor k = { s with
    fields := clearMarksWhere (fun j => decide (j = k)) s.fields
    bands := s.bands.modify k (fun b => { b with count := 0 }) } := by
  have hmarks : ∀ marks : Table 4 Bool, marks.set k false = Table.ofFn (fun j => marks.get j && !decide (j = k)) := by
    intro marks
    apply Table.ext_get
    intro j
    rw [Table.get_set, Table.get_ofFn]
    by_cases hj : j = k <;> simp [hj]
  simp only [State.clearMarksFor, clearMarksWhere, hmarks]

/-! ### The tape left (R166) -/

theorem State.leaveTape_eq (shown : Shows) (s : State) : s.leaveTape shown = { s with
    tape := if shown = .tape then ⟨[], [], 0, s.tape.baseSpeed, false⟩ else s.tape } := by
  unfold State.leaveTape
  split <;> rfl

/-! ### BAND (R140, R141) -/

/-- The rows of a BAND are taken where another used band holds one of them (R140). -/
theorem rowsTaken_of_holdsRow {bands : Table 4 Band} {k j : BandIx} {top height row : Nat} (hmin : top ≤ row)
    (hmax : row < top + height) (hj : j ≠ k) (hrow : holdsRow row (bands.get j) = true) :
    rowsTaken bands k top height = true := by
  by_contra hno
  rw [holdsRow_of_not_rowsTaken (Bool.eq_false_iff.mpr hno) hj hmin hmax] at hrow
  cases hrow

/-- They are not taken where no other band holds one of them: two runs of rows that meet share the later of their tops. -/
theorem not_rowsTaken_of_holdsRow {bands : Table 4 Band} {k : BandIx} {top height : Nat} (hheight : 0 < height)
    (hfree : ∀ row j, top ≤ row → row < top + height → j ≠ k → holdsRow row (bands.get j) = false) :
    rowsTaken bands k top height = false := by
  refine List.any_eq_false.mpr fun j _ htaken => ?_
  simp only [Bool.and_eq_true, decide_eq_true_eq] at htaken
  obtain ⟨⟨⟨hj, hused⟩, habove⟩, hbelow⟩ := htaken
  have hshared : holdsRow (max top (bands.get j).top) (bands.get j) = true := holdsRow_iff.mpr (by omega)
  rw [hfree _ j (le_max_left _ _) (by omega) hj] at hshared
  cases hshared

theorem doubleWidth_iff {size : Fin 4} : doubleWidth size = true ↔ size = 1 ∨ size = 3 := by simp [doubleWidth]

theorem bandWork_of_rowsTaken {r : BandReq} {s : State} (hheight : 0 < r.height)
    (htaken : rowsTaken s.bands r.band r.top r.height = true) : bandWork r s = s.reject Kind.band .overlap :=
  if_pos ⟨hheight, htaken⟩

theorem bandWork_of_doubleWidth {r : BandReq} {s : State} (hheight : 0 < r.height)
    (hfree : rowsTaken s.bands r.band r.top r.height = false) (htape : (s.bands.get r.band).shows = .tape)
    (hsize : doubleWidth r.size = true) : bandWork r s = s.reject Kind.band .badState := by
  rw [bandWork, hfree, if_neg fun h => Bool.false_ne_true h.2, if_pos ⟨hheight, htape, hsize⟩]

/-- An accepted BAND is written, and what follows is settled by the height given and by what the band shows (R141). -/
theorem bandWork_of_accepted {r : BandReq} {s : State} (hfree : 0 < r.height → rowsTaken s.bands r.band r.top r.height = false)
    (hsize : 0 < r.height → (s.bands.get r.band).shows = .tape → doubleWidth r.size = false) :
    bandWork r s = ((s.modifyBand r.band r.place).settleBand r.band r.height (s.bands.get r.band).shows).updateWork.ack
      Kind.band r.band.val := by
  rw [bandWork, if_neg, if_neg]
  · rfl
  · exact fun ⟨hheight, htape, hdouble⟩ => Bool.false_ne_true ((hsize hheight htape).symm.trans hdouble)
  · exact fun ⟨hheight, htaken⟩ => Bool.false_ne_true ((hfree hheight).symm.trans htaken)

/-- A band given no rows is freed (R141). -/
theorem State.settleBand_zero (k : BandIx) (shown : Shows) (s : State) : s.settleBand k 0 shown = { s with
    fields := clearMarksWhere (fun j => decide (j = k)) s.fields
    bands := s.bands.modify k (fun b => { b with shows := .nothing, curtain := .opened, count := 0, clearPending := false })
    tape := if shown = .tape then ⟨[], [], 0, s.tape.baseSpeed, false⟩ else s.tape } := by
  have hfreed : s.settleBand k 0 shown = s.freeBand k shown := if_pos rfl
  rw [hfreed, State.freeBand, State.leaveTape_eq, State.clearMarksFor_eq, State.modifyBand, Table.modify_modify]

/-- A band that shows a board is refreshed (R141). -/
theorem State.settleBand_board {height : Nat} (hheight : 0 < height) (k : BandIx) (board : BoardIx) (s : State) :
    s.settleBand k height (.board board) = s.refreshed k :=
  (if_neg (Nat.ne_of_gt hheight)).trans (s.refreshBand_eq k)

/-- A band that shows no board is OPEN (R141). -/
theorem State.settleBand_open {height : Nat} {shown : Shows} (hheight : 0 < height) (hshown : ∀ board, shown ≠ .board board)
    (k : BandIx) (s : State) : s.settleBand k height shown = s.modifyBand k (fun b => { b with curtain := .opened }) := by
  cases shown with
  | board board => exact absurd rfl (hshown board)
  | nothing | tape => exact if_neg (Nat.ne_of_gt hheight)

end Sys2Proof.Machine

open Sys2Proof Sys2Proof.Machine

/-- Settles O41: the two refusals in their order, and an accepted BAND by its height and by what the band shows. -/
theorem bandSetsGeometry : Obligations.BandSetsGeometry := by
  intro s u k top height size background htop hheight hrows h
  have hx := request_ok (work := bandWork) h (parse_band k top height size background htop hheight hrows)
  refine ⟨fun ⟨row, j, hmin, hmax, hj, hrow⟩ => hx.trans (congrArg _ ?_), fun hothers => ?_⟩
  · exact bandWork_of_rowsTaken (s := s.takeHead) (Nat.pos_of_ne_zero (by rintro rfl; omega))
      (rowsTaken_of_holdsRow hmin hmax hj hrow)
  have hfree : 0 < height → rowsTaken s.bands k top height = false := fun hpos => not_rowsTaken_of_holdsRow hpos hothers
  refine ⟨fun hpos htape hdouble => hx.trans (congrArg _ ?_), ?_⟩
  · exact bandWork_of_doubleWidth (s := s.takeHead) hpos (hfree hpos) htape (doubleWidth_iff.mpr hdouble)
  rintro rfl
  have haccepted : (0 < height → (s.bands.get k).shows = .tape → doubleWidth size = false) →
      bandWork ⟨k, top, height, size, background⟩ s.takeHead =
        ((s.takeHead.modifyBand k (BandReq.place ⟨k, top, height, size, background⟩)).settleBand k height
          (s.bands.get k).shows).updateWork.ack Kind.band k.val :=
    bandWork_of_accepted (r := ⟨k, top, height, size, background⟩) (s := s.takeHead) hfree
  refine ⟨fun hzero => hx.trans (congrArg _ ?_), fun hpos ⟨board, hboard⟩ => hx.trans (congrArg _ ?_),
    fun hpos hshown => hx.trans (congrArg _ ?_)⟩
  · subst hzero
    rw [haccepted fun hpos => absurd hpos (Nat.lt_irrefl 0), State.settleBand_zero]
    rfl
  · rw [haccepted fun _ => by rw [hboard]; nofun, hboard, State.settleBand_board hpos]
    rfl
  · have hsize : (s.bands.get k).shows = .tape → doubleWidth size = false := by
      intro htape
      rw [← Bool.not_eq_true, doubleWidth_iff, not_or]
      rcases hshown with hnothing | ⟨-, hone, hthree⟩
      · cases hnothing.symm.trans htape
      · exact ⟨hone, hthree⟩
    have hno : ∀ board, (s.bands.get k).shows ≠ .board board := by
      rcases hshown with hs | ⟨hs, -⟩ <;> rw [hs] <;> nofun
    rw [haccepted fun _ => hsize, State.settleBand_open hpos hno]
    rfl
end

section
/-! SUPPORT. SHOW in the whole state: its refusals, the board stolen, what the band leaves, and the target it takes. -/

namespace Sys2Proof.Machine

open Sys2Proof

/-! ### The refusal of SHOW (R142) -/

theorem showRefused_iff {bands : Table 4 Band} {k : BandIx} {target : Shows} : showRefused bands k target = true ↔
    (bands.get k).height = 0 ∨ (target = .tape ∧ ((∃ j, j ≠ k ∧ (bands.get j).shows = .tape)
      ∨ (bands.get k).size = 1 ∨ (bands.get k).size = 3)) := by
  simp [showRefused, doubleWidth_iff, mem_allBands]

/-- Every number up to 11h names a target, and 11h names TAPE (R142). -/
theorem Shows.ofCode_of_le {n : Nat} (h : n ≤ 0x11) : ∃ target, Shows.ofCode n = some target ∧ (n = 0x11 → target = .tape) := by
  rcases Nat.lt_or_ge n 16 with hboard | hother
  · exact ⟨.board ⟨n, hboard⟩, dif_pos hboard, by omega⟩
  · obtain rfl | rfl : n = 0x10 ∨ n = 0x11 := by omega
    · exact ⟨.nothing, rfl, nofun⟩
    · exact ⟨.tape, rfl, fun _ => rfl⟩

/-- A SHOW of a target that a number names is read as its band and that target (R142). -/
theorem parse_show_of_ofCode {n : Nat} {target : Shows} (hcode : Shows.ofCode n = some target) (k : BandIx) :
    parseShow (beBytes 1 k.val ++ beBytes 1 n) = .ok (k, target) := by
  have hle := Shows.ofCode_eq_some hcode
  rw [parse_show k n (by omega), hcode]
  rfl

/-! ### Stealing and leaving (R143) -/

/-- A band from which its board is stolen, or which is to show NONE: it owes a clear, and is OPEN (R143, R144). -/
def Band.hide (b : Band) : Band := { b with shows := .nothing, count := 0, clearPending := true, curtain := .opened }

theorem State.stealFrom_of_shown {k j : BandIx} {target : Shows} {s : State} (hj : j ≠ k)
    (hs : (s.bands.get j).shows = target) : s.stealFrom k target j = { s with
      fields := clearMarksWhere (fun m => decide (m = j)) s.fields
      bands := s.bands.modify j Band.hide } := by
  rw [State.stealFrom, if_pos ⟨hj, hs⟩, State.clearMarksFor_eq, State.modifyBand, Table.modify_modify]
  rfl

/-- Stealing from distinct bands hides those that show the board, their marks cleared. -/
theorem State.foldl_stealFrom (k : BandIx) (target : Shows) (l : List BandIx) (s : State) (h : l.Nodup) :
    l.foldl (State.stealFrom k target) s = { s with
      fields := clearMarksWhere (fun j => decide (j ∈ l ∧ j ≠ k ∧ (s.bands.get j).shows = target)) s.fields
      bands := Table.ofFn (fun j =>
        if j ∈ l ∧ j ≠ k ∧ (s.bands.get j).shows = target then (s.bands.get j).hide else s.bands.get j) } := by
  induction l generalizing s with
  | nil => simp [clearMarksWhere_of_none]
  | cons i l ih =>
    obtain ⟨hi, hl⟩ := List.nodup_cons.mp h
    rw [List.foldl_cons, ih _ hl]
    by_cases hs : i ≠ k ∧ (s.bands.get i).shows = target
    · have hsame : ∀ j, (j ∈ l ∧ j ≠ k ∧ ((s.bands.modify i Band.hide).get j).shows = target)
          ↔ (j ∈ l ∧ j ≠ k ∧ (s.bands.get j).shows = target) := by
        refine fun j => and_congr_right fun hj => ?_
        rw [Table.get_modify_ne _ _ (ne_of_mem_of_not_mem hj hi)]
      rw [State.stealFrom_of_shown hs.1 hs.2]
      dsimp only
      simp only [hsame, clearMarksWhere_clearMarksWhere]
      congr 1
      · refine clearMarksWhere_congr (fun j => ?_) _
        by_cases hj : j = i
        · subst j; simp [hs]
        · simp [hj]
      · apply Table.ext_get
        intro j
        simp only [Table.get_ofFn, Table.get_modify]
        by_cases hj : j = i
        · subst j; simp [hi, hs]
        · simp [hj]
    · have hsame : ∀ j, (j ∈ i :: l ∧ j ≠ k ∧ (s.bands.get j).shows = target)
          ↔ (j ∈ l ∧ j ≠ k ∧ (s.bands.get j).shows = target) := by
        intro j
        rw [List.mem_cons, or_and_right]
        refine or_iff_right ?_
        rintro ⟨rfl, hshown⟩
        exact hs hshown
      rw [State.stealFrom, if_neg hs]
      simp only [hsame]

/-- Leaving a board clears the band's marks and count; a band that shows none has nothing to leave. -/
theorem State.leaveBoard_eq (k : BandIx) (s : State) : s.leaveBoard k = { s with
    fields := if (s.bands.get k).shows ≠ .nothing ∧ (s.bands.get k).shows ≠ .tape
      then clearMarksWhere (fun j => decide (j = k)) s.fields else s.fields
    bands := s.bands.modify k (fun b =>
      { b with count := if b.shows ≠ .nothing ∧ b.shows ≠ .tape then 0 else b.count }) } := by
  have hkept : ¬((s.bands.get k).shows ≠ .nothing ∧ (s.bands.get k).shows ≠ .tape) → s.bands.modify k (fun b =>
      { b with count := if b.shows ≠ .nothing ∧ b.shows ≠ .tape then 0 else b.count }) = s.bands := by
    intro h
    rw [Table.modify, if_neg h]
    exact Table.set_get _ _
  unfold State.leaveBoard
  split
  · rename_i board hs
    rw [State.clearMarksFor_eq]
    simp [Table.modify, hs]
  · rename_i hs
    rw [hkept (by simp [hs]), hs]
    rfl
  · rename_i hs
    rw [hkept (by simp [hs]), hs]
    rfl

/-! ### The target taken (R143, R144) -/

/-- A SHOW of a board or of NONE for a used band is not refused: the band steals, leaves what it showed, and takes its target. -/
theorem showWork_of_ne_tape {k : BandIx} {target : Shows} {s : State} (hused : 0 < (s.bands.get k).height)
    (htarget : target ≠ .tape) : showWork (k, target) s =
      ((((s.stealBoard k target).leaveBoard k).leaveTape (s.bands.get k).shows).takeTarget k target).ack
        Kind.showBand k.val := by
  have haccepted : showRefused s.bands k target = false := by
    rw [← Bool.not_eq_true, showRefused_iff]
    rintro (hzero | ⟨htape, -⟩)
    · omega
    · exact htarget htape
  rw [showWork, haccepted]
  dsimp only
  rw [if_neg htarget]
  rfl

/-- A SHOW of TAPE for a used band that is not of double width, and with no other tape band, is not refused. -/
theorem showWork_tape {k : BandIx} {s : State} (hused : 0 < (s.bands.get k).height) (hone : (s.bands.get k).size ≠ 1)
    (hthree : (s.bands.get k).size ≠ 3) (hothers : ∀ j, j ≠ k → (s.bands.get j).shows ≠ .tape) :
    showWork (k, .tape) s = ((s.leaveBoard k).takeTarget k .tape).ack Kind.showBand k.val := by
  have haccepted : showRefused s.bands k .tape = false := by
    rw [← Bool.not_eq_true, showRefused_iff]
    rintro (hzero | ⟨-, ⟨j, hj, hs⟩ | hdouble | hdouble⟩)
    · omega
    · exact hothers j hj hs
    · exact hone hdouble
    · exact hthree hdouble
  rw [showWork, haccepted]
  rfl

/-- A SHOW of a board, up to the band's refresh. -/
theorem State.boardTaken_eq (k : BandIx) (board : BoardIx) (s : State) :
    (((s.stealBoard k (.board board)).leaveBoard k).leaveTape (s.bands.get k).shows).modifyBand k
      (fun b => { b with shows := .board board }) = { s with
        fields := clearMarksWhere (fun j =>
          if j = k then decide ((s.bands.get k).shows ≠ .nothing ∧ (s.bands.get k).shows ≠ .tape)
          else decide ((s.bands.get j).shows = .board board)) s.fields
        bands := Table.ofFn (fun j =>
          if j = k then { s.bands.get k with
            shows := .board board
            count := if (s.bands.get k).shows ≠ .nothing ∧ (s.bands.get k).shows ≠ .tape then 0
              else (s.bands.get k).count }
          else if (s.bands.get j).shows = .board board then (s.bands.get j).hide
          else s.bands.get j)
        tape := if (s.bands.get k).shows = .tape then ⟨[], [], 0, s.tape.baseSpeed, false⟩ else s.tape } := by
  have hself := s.stealBoard_self k (.board board)
  rw [State.leaveTape_eq, State.leaveBoard_eq, hself, State.modifyBand, Table.modify_modify, State.stealBoard,
    State.foldl_stealFrom _ _ _ _ (by decide)]
  simp only [mem_allBands, true_and]
  congr 1
  · split
    · rename_i hboard
      rw [clearMarksWhere_clearMarksWhere]
      refine clearMarksWhere_congr (fun j => ?_) _
      by_cases hj : j = k <;> simp [hj, hboard]
    · rename_i hboard
      refine clearMarksWhere_congr (fun j => ?_) _
      by_cases hj : j = k <;> simp [hj, hboard]
  · apply Table.ext_get
    intro j
    rw [Table.get_modify, Table.get_ofFn, Table.get_ofFn, Table.get_ofFn]
    by_cases hj : j = k <;> simp [hj]

end Sys2Proof.Machine

open Sys2Proof Sys2Proof.Machine

/-- Settles O42: the refusals, and an accepted SHOW by its target. -/
theorem showSetsTarget : Obligations.ShowSetsTarget := by
  intro s k
  refine ⟨fun n hn h hrefused => ?_, fun hused => ⟨fun board h => ?_, fun h => ?_, fun h hone hthree hothers => ?_⟩⟩
  · obtain ⟨target, hcode, htape⟩ := Shows.ofCode_of_le hn
    refine (request_ok h (parse_show_of_ofCode hcode k)).trans (congrArg _ ?_)
    exact if_pos (showRefused_iff.mpr (hrefused.imp_right fun ⟨hn, hwhy⟩ => ⟨htape hn, hwhy⟩))
  · have hcode : Shows.ofCode board.val = some (.board board) := dif_pos board.isLt
    refine (request_ok h (parse_show_of_ofCode hcode k)).trans (congrArg _ ?_)
    rw [showWork_of_ne_tape (target := .board board) (s := s.takeHead) hused nofun, State.takeTarget, State.boardTaken_eq,
      State.refreshBand_eq]
    rfl
  · refine (request_ok h (parse_show_of_ofCode (n := 0x10) rfl k)).trans (congrArg _ ?_)
    rw [showWork_of_ne_tape (target := .nothing) (s := s.takeHead) hused nofun, State.takeTarget, State.leaveTape_eq,
      State.stealBoard, State.leaveBoard_eq, State.modifyBand, Table.modify_modify]
    rfl
  · have hx := request_ok (work := showWork) h (parse_show_of_ofCode (n := 0x11) rfl k)
    rw [showWork_tape (s := s.takeHead) hused hone hthree hothers] at hx
    refine ⟨fun hs => hx.trans (congrArg _ ?_), fun hs => hx.trans (congrArg _ ?_)⟩
    · have hkept : s.takeHead.leaveBoard k = s.takeHead := by rw [State.leaveBoard, State.takeHead_bands, hs]
      rw [hkept, State.takeTarget, State.takeHead_bands, if_pos hs]
      rfl
    · have hboard : (s.bands.get k).shows ≠ .nothing ∧ (s.bands.get k).shows ≠ .tape ↔ (s.bands.get k).shows ≠ .nothing :=
        and_iff_left hs
      have hstill : ((s.takeHead.leaveBoard k).bands.get k).shows ≠ .tape := by rwa [State.leaveBoard_bands]
      rw [State.takeTarget, if_neg hstill, State.leaveBoard_eq, State.modifyBand, Table.modify_modify]
      simp only [State.takeHead_bands, hboard]
      rfl
end

section
/-! SUPPORT. The Tape Unit's frame-start work: the advance of the offset, the items that move into the ring, the padding; and the
bounds that the work keeps. -/

namespace Sys2Proof.Machine

open Sys2Proof

/-! ### The speed and the advance (R161, R163) -/

theorem effectiveSpeed_eq (base depth : Nat) :
    effectiveSpeed base depth = base + (if depth ≤ 15 then 0 else if depth ≤ 47 then 2 else 4) := by
  unfold effectiveSpeed
  split
  · rfl
  · split <;> rfl

theorem effectiveSpeed_le {base : Nat} (h : base ≤ 4) (depth : Nat) : effectiveSpeed base depth ≤ 8 := by
  rw [effectiveSpeed_eq]
  split
  · omega
  · split <;> omega

/-- An offset below 10 and a speed below 11 carry at most one character out of the ring. -/
theorem Tape.advance_ring {t : Tape} {speed : Nat} (h : t.offset + speed < 20) :
    (t.advance speed).ring = if t.offset + speed < 10 then t.ring else t.ring.tail := by
  unfold Tape.advance
  split
  · rw [Nat.div_eq_of_lt ‹_›, List.drop_zero]
  · rw [show (t.offset + speed) / 10 = 1 by omega, List.drop_one]

theorem Tape.advance_ring_length_le (speed : Nat) (t : Tape) : (t.advance speed).ring.length ≤ t.ring.length :=
  (List.drop_sublist _ _).length_le

/-! ### The items moved (R159, R162) -/

/-- The items moved are the oldest of the queue, and stand in the ring in their order; LATE stays where none has moved or the depth
is still 16 or more. -/
theorem moveItems_moved (queue : List (List Byte)) (ring : List Byte) (late : Bool) :
    ∃ moved, queue = moved ++ (moveItems queue ring late).1 ∧ (moveItems queue ring late).2.1 = ring ++ moved.flatten
      ∧ (moveItems queue ring late).2.2 = (late && (moved.isEmpty || decide (16 ≤ (moveItems queue ring late).1.length))) := by
  induction queue generalizing ring late with
  | nil => exact ⟨[], rfl, (List.append_nil ring).symm, (Bool.and_true late).symm⟩
  | cons item rest ih =>
    rw [moveItems]
    split
    · obtain ⟨moved, hqueue, hring, hlate⟩ := ih (ring ++ item) (if rest.length < 16 then false else late)
      refine ⟨item :: moved, congrArg (item :: ·) hqueue, by rw [hring, List.flatten_cons, List.append_assoc], hlate.trans ?_⟩
      have hlength := congrArg List.length hqueue
      rw [List.length_append] at hlength
      generalize (moveItems rest (ring ++ item) (if rest.length < 16 then false else late)).1 = left at hlength ⊢
      rw [List.isEmpty_cons, Bool.false_or]
      split
      · have hleft : ¬16 ≤ left.length := by omega
        rw [Bool.false_and, decide_eq_false hleft, Bool.and_false]
      · cases moved with
        | nil =>
          have hleft : 16 ≤ left.length := by rw [List.length_nil] at hlength; omega
          rw [decide_eq_true hleft, Bool.or_true]
        | cons head moved => rw [List.isEmpty_cons, Bool.false_or]
    · exact ⟨[], rfl, (List.append_nil ring).symm, (Bool.and_true late).symm⟩

/-- Items move only while they fit. -/
theorem moveItems_ring_length_le {ring : List Byte} (h : ring.length ≤ 128) (queue : List (List Byte)) (late : Bool) :
    (moveItems queue ring late).2.1.length ≤ 128 := by
  induction queue generalizing ring late with
  | nil => exact h
  | cons item rest ih =>
    rw [moveItems]
    split
    · exact ih (by rw [List.length_append]; assumption) _
    · exact h

/-- The move stops only at an item that does not fit. -/
theorem moveItems_full {queue : List (List Byte)} {ring : List Byte} {late : Bool} {head : List Byte} {rest : List (List Byte)}
    (h : (moveItems queue ring late).1 = head :: rest) : 128 < (moveItems queue ring late).2.1.length + head.length := by
  induction queue generalizing ring late with
  | nil => cases h
  | cons item queue ih =>
    rw [moveItems] at h ⊢
    split at h
    · rw [if_pos ‹_›]
      exact ih h
    · rename_i hfull
      cases h
      rw [if_neg hfull]
      exact not_le.mp hfull

/-! ### The ring filled (R162) -/

/-- What stands in the ring when the items move in: an empty ring takes 97 spaces first. -/
def Tape.filled (t : Tape) : List Byte := if t.ring = [] then List.replicate 97 0x20 else t.ring

/-- What the move leaves of the queue, the ring and LATE. -/
def Tape.moved (t : Tape) : List (List Byte) × List Byte × Bool := moveItems t.queue t.filled t.late

/-- The spaces that follow the move: up to 97 characters where the queue is empty. -/
def Tape.padding (t : Tape) : Nat := if t.moved.1 = [] then 97 - t.moved.2.1.length else 0

theorem Tape.refill_eq (t : Tape) : t.refill = { t with
    queue := t.moved.1
    ring := t.moved.2.1 ++ List.replicate t.padding 0x20
    late := t.moved.2.2 } := by
  have hring : (if t.moved.1 = [] then padRing t.moved.2.1 else t.moved.2.1) = t.moved.2.1 ++ List.replicate t.padding 0x20 := by
    unfold Tape.padding
    split
    · rfl
    · rw [List.replicate_zero, List.append_nil]
  rw [← hring]
  rfl

theorem Tape.filled_length_le {t : Tape} (h : t.ring.length ≤ 128) : t.filled.length ≤ 128 := by
  unfold Tape.filled
  split
  · decide
  · exact h

theorem Tape.refill_ring_length_le {t : Tape} (h : t.ring.length ≤ 128) : t.refill.ring.length ≤ 128 := by
  have hmoved : t.moved.2.1.length ≤ 128 := moveItems_ring_length_le (t.filled_length_le h) _ _
  rw [Tape.refill_eq, List.length_append, List.length_replicate, Tape.padding]
  split <;> omega

theorem Tape.refill_queue_length_le (t : Tape) : t.refill.queue.length ≤ t.queue.length := by
  obtain ⟨moved, hqueue, -⟩ := moveItems_moved t.queue t.filled t.late
  rw [Tape.refill_eq, hqueue, List.length_append]
  exact Nat.le_add_left _ _

/-! ### The whole work (R161, R162) -/

theorem Tape.frameStart_offset (t : Tape) :
    t.frameStart.offset = (t.offset + effectiveSpeed t.baseSpeed t.queue.length) % 10 := rfl

theorem Tape.frameStart_baseSpeed (t : Tape) : t.frameStart.baseSpeed = t.baseSpeed := rfl

theorem Tape.frameStart_queue_length_le (t : Tape) : t.frameStart.queue.length ≤ t.queue.length :=
  Tape.refill_queue_length_le _

theorem Tape.frameStart_ring_length_le {t : Tape} (h : t.ring.length ≤ 128) : t.frameStart.ring.length ≤ 128 :=
  Tape.refill_ring_length_le ((t.advance_ring_length_le _).trans h)

/-- A refill by the items moved and the spaces that follow them. -/
theorem Tape.refill_moved (t : Tape) : ∃ (moved : List (List Byte)) (pad : Nat), t.queue = moved ++ t.refill.queue
    ∧ t.refill.ring = t.filled ++ moved.flatten ++ List.replicate pad 0x20
    ∧ (∀ head rest, t.refill.queue = head :: rest → pad = 0 ∧ 128 < t.refill.ring.length + head.length)
    ∧ (t.refill.queue = [] → pad = 97 - (t.filled ++ moved.flatten).length)
    ∧ t.refill.late = (t.late && (moved.isEmpty || decide (16 ≤ t.refill.queue.length))) := by
  obtain ⟨moved, hqueue, hring, hlate⟩ : ∃ moved, t.queue = moved ++ t.moved.1 ∧ t.moved.2.1 = t.filled ++ moved.flatten
      ∧ t.moved.2.2 = (t.late && (moved.isEmpty || decide (16 ≤ t.moved.1.length))) := moveItems_moved _ _ _
  rw [Tape.refill_eq]
  refine ⟨moved, t.padding, hqueue, by rw [hring], fun head rest hleft => ?_, fun hleft => ?_, hlate⟩
  · have hleft : t.moved.1 = head :: rest := hleft
    have hpad : t.padding = 0 := if_neg (by rw [hleft]; nofun)
    refine ⟨hpad, ?_⟩
    rw [hpad, List.replicate_zero, List.append_nil]
    exact moveItems_full hleft
  · rw [← hring]
    exact if_pos hleft

end Sys2Proof.Machine

open Sys2Proof Sys2Proof.Machine

/-- Settles O44: the speed of the depth carries at most one character out, and the refill follows in the ring that is left. -/
theorem tapeFrameWork : Obligations.TapeFrameWork := by
  rintro t speed ring hoffset - hbase hlength hspeed hring
  have hspeed : effectiveSpeed t.baseSpeed t.queue.length = speed := (effectiveSpeed_eq _ _).trans hspeed.symm
  have hmax := effectiveSpeed_le hbase t.queue.length
  have hleft : (t.advance speed).ring = ring := (Tape.advance_ring (by omega)).trans hring.symm
  refine ⟨by rw [Tape.frameStart_offset, hspeed], t.frameStart_baseSpeed, Tape.frameStart_ring_length_le hlength, ?_⟩
  rw [Tape.frameStart, hspeed, ← hleft]
  exact (t.advance speed).refill_moved
end

section
/-! SUPPORT. The Tape Unit and whether a band shows TAPE: the elementary changes of these two, the law that each keeps, and the
operations that leave both alone. -/

namespace Sys2Proof.Machine

open Sys2Proof

/-! ### The two parts -/

/-- The Tape Unit's state, and whether a band shows TAPE. -/
structure TapePart where
  tape : Tape
  shown : Bool

/-- These parts of a state. -/
def State.tapePart (s : State) : TapePart := ⟨s.tape, s.tapeShown⟩

@[simp] theorem State.tapePart_tape (s : State) : s.tapePart.tape = s.tape := rfl
@[simp] theorem State.tapePart_shown (s : State) : s.tapePart.shown = s.tapeShown := rfl

/-- The bounds of the Tape Unit's state, and its emptiness while no band shows TAPE (R155, R160). -/
structure TapePart.Lawful (m : TapePart) : Prop where
  queue : m.tape.queue.length ≤ 64
  ring : m.tape.ring.length ≤ 128
  empty : m.shown = false → m.tape.queue = [] ∧ m.tape.ring = []
  offset : m.tape.offset ≤ 9
  speed : 1 ≤ m.tape.baseSpeed ∧ m.tape.baseSpeed ≤ 4

theorem State.tapeLawful_iff {s : State} : s.TapeLawful ↔ s.tapePart.Lawful :=
  ⟨fun h => ⟨h.queue, h.ring, h.empty, h.offset, h.speed⟩, fun h => ⟨h.queue, h.ring, h.empty, h.offset, h.speed⟩⟩

/-! ### The elementary changes -/

/-- One change of the two parts, with what has been checked or found before it is made. -/
inductive TapePart.Change (m : TapePart) : TapePart → Prop where
  /-- Every block takes its reset values (R179). -/
  | reset : Change m State.reset.tapePart
  /-- A print or a host text joins the queue, which has room for it (R157, R158). -/
  | joined (item : List Byte) (hshown : m.shown = true) (hroom : m.tape.queue.length < Config.tapeCapacity) :
      Change m { m with tape := { m.tape with queue := m.tape.queue ++ [item] } }
  /-- A print or a host text is dropped, and LATE is set (R157, R158). -/
  | dropped (hshown : m.shown = true) (hfull : Config.tapeCapacity ≤ m.tape.queue.length) :
      Change m { m with tape := { m.tape with late := true } }
  /-- TAPESPEED (R163). -/
  | speeded (speed : Nat) (h : 1 ≤ speed ∧ speed ≤ 4) : Change m { m with tape := { m.tape with baseSpeed := speed } }
  /-- The frame-start work, while a band shows TAPE (R161). -/
  | framed (hshown : m.shown = true) : Change m { m with tape := m.tape.frameStart }
  /-- A band comes to show TAPE (R144). -/
  | taped : Change m { m with shown := true }
  /-- A band that showed TAPE shows it no longer, and the tape is torn down (R141, R143, R166). -/
  | tornDown (shown : Bool) : Change m ⟨m.tape.tearDown, shown⟩

/-- A chain of changes. -/
abbrev TapePart.Changes : TapePart → TapePart → Prop := Relation.ReflTransGen TapePart.Change

theorem TapePart.Changes.of_eq {m n : TapePart} (h : n = m) : m.Changes n := h ▸ .refl

/-- Each change keeps the bounds. -/
theorem TapePart.Change.keeps_lawful {m n : TapePart} (hc : m.Change n) (h : m.Lawful) : n.Lawful := by
  cases hc with
  | reset => exact State.tapeLawful_iff.mp reset_tapeLawful
  | joined item hshown hroom =>
    refine { h with queue := ?_, empty := fun hnot => ?_ }
    · rw [List.length_append, List.length_singleton]
      exact hroom
    · cases hshown.symm.trans hnot
  | dropped => exact { h with }
  | speeded speed hspeed => exact { h with speed := hspeed }
  | framed hshown =>
    exact {
      queue := (Tape.frameStart_queue_length_le _).trans h.queue
      ring := Tape.frameStart_ring_length_le h.ring
      empty := fun hnot => nomatch hshown.symm.trans hnot
      offset := Nat.le_of_lt_succ (Nat.mod_lt _ (by decide))
      speed := h.speed }
  | taped => exact { h with empty := nofun }
  | tornDown shown =>
    exact {
      queue := Nat.zero_le _
      ring := Nat.zero_le _
      empty := fun _ => ⟨rfl, rfl⟩
      offset := Nat.zero_le _
      speed := h.speed }

/-- So does a chain of changes. -/
theorem TapePart.Changes.keeps_lawful {m n : TapePart} (hc : m.Changes n) (h : m.Lawful) : n.Lawful := by
  induction hc with
  | refl => exact h
  | tail _ hlast ih => exact hlast.keeps_lawful ih

/-! ### What leaves the two parts alone -/

/-- Two states with the same tape whose bands show the same have the same two parts. -/
theorem State.tapePart_congr {s t : State} (htape : t.tape = s.tape)
    (hshows : ∀ k, (t.bands.get k).shows = .tape ↔ (s.bands.get k).shows = .tape) : t.tapePart = s.tapePart := by
  have hshown : t.tapeShown = s.tapeShown := by
    rw [Bool.eq_iff_iff, State.tapeShown_eq_true, State.tapeShown_eq_true]
    exact exists_congr hshows
  rw [State.tapePart, htape, hshown]
  rfl

/-- A change of one band that neither begins nor ends to show TAPE. -/
theorem State.modifyBand_tapePart {k : BandIx} {f : Band → Band} {s : State}
    (h : (f (s.bands.get k)).shows = .tape ↔ (s.bands.get k).shows = .tape) : (s.modifyBand k f).tapePart = s.tapePart := by
  refine State.tapePart_congr rfl fun j => ?_
  rw [State.modifyBand_bands, Table.get_modify]
  split
  · subst j
    exact h
  · rfl

/-- A walk whose every step leaves the two parts alone leaves them alone. -/
theorem State.foldl_tapePart {α : Type} {f : State → α → State} (h : ∀ s a, (f s a).tapePart = s.tapePart) (l : List α)
    (s : State) : (l.foldl f s).tapePart = s.tapePart := by
  induction l generalizing s with
  | nil => rfl
  | cons a l ih => rw [List.foldl_cons, ih, h]

@[simp] theorem State.takeHead_tapePart (s : State) : s.takeHead.tapePart = s.tapePart := rfl
@[simp] theorem State.place_tapePart (r : Record) (s : State) : (s.place r).tapePart = s.tapePart := rfl
@[simp] theorem State.reply_tapePart (r : Record) (s : State) : (s.reply r).tapePart = s.tapePart := rfl
@[simp] theorem State.ack_tapePart (kind : Byte) (value : Nat) (s : State) : (s.ack kind value).tapePart = s.tapePart := rfl
@[simp] theorem State.reject_tapePart (kind : Byte) (reason : Reason) (s : State) :
    (s.reject kind reason).tapePart = s.tapePart := rfl
@[simp] theorem State.setLink_tapePart (l : Link) (s : State) : (s.setLink l).tapePart = s.tapePart := rfl
@[simp] theorem State.setRecord_tapePart (slot : Slot) (q : Quote) (s : State) :
    (s.setRecord slot q).tapePart = s.tapePart := rfl
@[simp] theorem State.setWatch_tapePart (w : FeedWatch) (s : State) : (s.setWatch w).tapePart = s.tapePart := rfl
@[simp] theorem State.setScan_tapePart (scan : HeatScan) (s : State) : (s.setScan scan).tapePart = s.tapePart := rfl
@[simp] theorem State.setWork_tapePart (w : PaintWork) (s : State) : (s.setWork w).tapePart = s.tapePart := rfl
@[simp] theorem State.updateWork_tapePart (s : State) : s.updateWork.tapePart = s.tapePart := rfl
@[simp] theorem State.setCells_tapePart (c : CellStore) (s : State) : (s.setCells c).tapePart = s.tapePart := rfl
@[simp] theorem State.queued_tapePart (new : List EntryIx) (s : State) : (s.queued new).tapePart = s.tapePart := rfl

@[simp] theorem State.placed_tapePart (s : State) : s.placed.tapePart = s.tapePart := by
  unfold State.placed
  split <;> rfl

@[simp] theorem State.admissionMade_tapePart (s : State) : s.admissionMade.tapePart = s.tapePart := by
  unfold State.admissionMade
  split
  · rfl
  · exact s.placed_tapePart

/-! ### Marks and the Feed Watch -/

@[simp] theorem State.markEntry_tapePart (s : State) (i : EntryIx) : (s.markEntry i).tapePart = s.tapePart := by
  rw [State.markEntry_eq, State.queued_tapePart]

@[simp] theorem State.markWhere_tapePart (p : Field → Bool) (s : State) : (s.markWhere p).tapePart = s.tapePart :=
  State.foldl_tapePart State.markEntry_tapePart _ s

@[simp] theorem State.markItems_tapePart (slot : Slot) (items : List Item) (s : State) :
    (s.markItems slot items).tapePart = s.tapePart :=
  State.foldl_tapePart (fun t item => t.markWhere_tapePart (showsItem slot item)) items s

@[simp] theorem State.handOver_tapePart (m : Marks) (s : State) : (s.handOver m).tapePart = s.tapePart := by
  unfold State.handOver
  split
  · rfl
  · cases m with
    | lookups slot items => exact s.markItems_tapePart slot items
    | sweep set attr => exact s.markWhere_tapePart (inPalette set)

@[simp] theorem State.settled_tapePart (s : State) : s.settled.tapePart = s.tapePart := by
  rw [State.tapePart, State.tapeShown, State.settled_tape, State.settled_bands]
  rfl

@[simp] theorem State.ready_tapePart (s : State) : s.ready.tapePart = s.tapePart := by
  rw [State.ready, State.placed_tapePart, State.settled_tapePart]

@[simp] theorem State.feedChanged_tapePart (s : State) : s.feedChanged.tapePart = s.tapePart := by
  rw [State.feedChanged_eq]
  rfl

@[simp] theorem State.reloadFeed_tapePart (s : State) : s.reloadFeed.tapePart = s.tapePart := by
  unfold State.reloadFeed
  split <;> simp

@[simp] theorem State.expire_tapePart (s : State) : s.expire.tapePart = s.tapePart := by
  unfold State.expire
  split <;> simp

/-! ### The Field Map and the bands' counts -/

@[simp] theorem State.setUnpainted_tapePart (k : BandIx) (s : State) (i : EntryIx) :
    (s.setUnpainted k i).tapePart = s.tapePart := by
  unfold State.setUnpainted
  split
  · rfl
  · exact s.modifyBand_tapePart (k := k) Iff.rfl

@[simp] theorem State.clearUnpainted_tapePart (i : EntryIx) (s : State) (k : BandIx) :
    (s.clearUnpainted i k).tapePart = s.tapePart := by
  unfold State.clearUnpainted
  split
  · exact s.modifyBand_tapePart (k := k) Iff.rfl
  · rfl

@[simp] theorem State.clearMarksOf_tapePart (i : EntryIx) (s : State) : (s.clearMarksOf i).tapePart = s.tapePart :=
  State.foldl_tapePart (State.clearUnpainted_tapePart i) allBands s

@[simp] theorem State.clearMarksFor_tapePart (k : BandIx) (s : State) : (s.clearMarksFor k).tapePart = s.tapePart :=
  s.modifyBand_tapePart (k := k) Iff.rfl

@[simp] theorem State.sweepBand_tapePart (k : BandIx) (s : State) : (s.sweepBand k).tapePart = s.tapePart :=
  State.foldl_tapePart (fun t i => by rw [State.sweepEntry, State.markEntry_tapePart, State.setUnpainted_tapePart]) _ s

@[simp] theorem State.refreshBand_tapePart (k : BandIx) (s : State) : (s.refreshBand k).tapePart = s.tapePart := by
  rw [State.refreshBand, State.sweepBand_tapePart, State.modifyBand_tapePart Iff.rfl]

@[simp] theorem State.freeEntry_tapePart (s : State) (i : EntryIx) : (s.freeEntry i).tapePart = s.tapePart := by
  have hcleared := s.clearMarksOf_tapePart i
  unfold State.freeEntry
  generalize s.clearMarksOf i = t at hcleared ⊢
  exact hcleared

@[simp] theorem State.eraseEntry_tapePart (i : EntryIx) (s : State) : (s.eraseEntry i).tapePart = s.tapePart := by
  have hcleared := s.clearMarksOf_tapePart i
  unfold State.eraseEntry
  generalize s.clearMarksOf i = t at hcleared ⊢
  exact hcleared

@[simp] theorem State.holdCurtain_tapePart (i : EntryIx) (s : State) (k : BandIx) :
    (s.holdCurtain i k).tapePart = s.tapePart := by
  unfold State.holdCurtain
  split <;> simp

@[simp] theorem State.placeEntry_tapePart (i : EntryIx) (f : Field) (s : State) : (s.placeEntry i f).tapePart = s.tapePart := by
  rw [State.placeEntry, State.markEntry_tapePart, State.foldl_tapePart (State.holdCurtain_tapePart i)]
  rfl

/-! ### The Painter and the Raster's reading -/

@[simp] theorem State.clearBand_tapePart (k : BandIx) (s : State) : (s.clearBand k).tapePart = s.tapePart := by
  have hcleared : ∀ t : State, (t.modifyBand k (fun b => { b with clearPending := false })).tapePart = t.tapePart :=
    fun _ => State.modifyBand_tapePart Iff.rfl
  unfold State.clearBand
  dsimp only
  split <;> simp [hcleared]

@[simp] theorem State.clearStep_tapePart (k : BandIx) (s : State) : (s.clearStep k).tapePart = s.tapePart := by
  unfold State.clearStep
  split
  · split <;> simp
  · rfl
  · rfl
  · rfl

@[simp] theorem State.writeInto_tapePart (i : EntryIx) (chars : List (Byte × AttrIx)) (s : State) (k : BandIx) :
    (s.writeInto i chars k).tapePart = s.tapePart := by
  unfold State.writeInto
  dsimp only
  split <;> simp

@[simp] theorem State.eraseFrom_tapePart (f : Field) (s : State) (k : BandIx) : (s.eraseFrom f k).tapePart = s.tapePart := by
  unfold State.eraseFrom
  split <;> simp

@[simp] theorem State.dealWith_tapePart (i : EntryIx) (s : State) : (s.dealWith i).1.tapePart = s.tapePart := by
  unfold State.dealWith
  dsimp only
  split
  · exact State.foldl_tapePart (State.writeInto_tapePart i _) allBands s
  · rfl
  · exact State.foldl_tapePart (State.eraseFrom_tapePart _) allBands s
  · rfl
  · rfl

@[simp] theorem State.takeOne_tapePart (budget counted : Nat) (s : State) : (s.takeOne budget counted).tapePart = s.tapePart := by
  unfold State.takeOne State.takeEntry
  split
  · rfl
  · split
    · rfl
    · rw [State.updateWork_tapePart, State.setWork_tapePart, State.dealWith_tapePart]
      rfl

@[simp] theorem State.releaseStep_tapePart (k : BandIx) (s : State) : (s.releaseStep k).tapePart = s.tapePart := by
  unfold State.releaseStep
  split
  · split
    · rw [State.setWork_tapePart, State.modifyBand_tapePart Iff.rfl]
    · rfl
  · rfl

@[simp] theorem State.readFrame_tapePart (s : State) : s.readFrame.tapePart = s.tapePart := by
  unfold State.readFrame
  split <;> rfl

@[simp] theorem State.visit_tapePart (slot : Slot) (s : State) : (s.visit slot).tapePart = s.tapePart := by
  unfold State.visit
  dsimp only
  split
  · rfl
  · split
    · rfl
    · exact State.handOver_tapePart _ _

@[simp] theorem State.scanStep_tapePart (s : State) : s.scanStep.tapePart = s.tapePart := by
  unfold State.scanStep
  split <;> simp

/-! ### The requests that leave the two parts alone -/

theorem defineWork_tapePart (r : DefineReq) (s : State) : (defineWork r s).tapePart = s.tapePart := by
  simp [defineWork]

theorem clearWork_tapePart (slot : Slot) (s : State) : (clearWork slot s).tapePart = s.tapePart := by
  unfold clearWork
  split <;> simp

theorem tradingWork_tapePart (kind : Byte) (state : RecState) (slot : Slot) (s : State) :
    (tradingWork kind state slot s).tapePart = s.tapePart := by
  unfold tradingWork
  split <;> simp

theorem setrefWork_tapePart (r : Slot × Option Nat) (s : State) : (setrefWork r s).tapePart = s.tapePart := by
  unfold setrefWork
  split <;> simp

theorem openDayWork_tapePart (s : State) : (openDayWork () s).tapePart = s.tapePart := by
  rw [openDayWork, State.ack_tapePart, State.markWhere_tapePart]
  rfl

theorem installWork_tapePart (e : DirEntry) (s : State) : (installWork e s).tapePart = s.tapePart := by
  unfold installWork
  split
  · rfl
  · split
    · rfl
    · split
      · rfl
      · split <;> rfl

theorem removeWork_tapePart (r : Venue × Bool × Code) (s : State) : (removeWork r s).tapePart = s.tapePart := by
  unfold removeWork
  split <;> rfl

theorem watchWork_tapePart (period : Nat) (s : State) : (watchWork period s).tapePart = s.tapePart := by
  unfold watchWork
  split <;> simp

theorem mapWork_tapePart (f : Field) (s : State) : (mapWork f s).tapePart = s.tapePart := by
  unfold mapWork
  split
  · rfl
  · split
    · rfl
    · split
      · rfl
      · rw [State.ack_tapePart, State.updateWork_tapePart, State.placeEntry_tapePart]

theorem unmapWork_tapePart (i : EntryIx) (s : State) : (unmapWork i s).tapePart = s.tapePart := by
  unfold unmapWork
  split
  · split <;> simp
  · rfl

theorem mflushWork_tapePart (g : FieldGroup) (s : State) : (mflushWork g s).tapePart = s.tapePart := by
  rw [mflushWork, State.ack_tapePart, State.updateWork_tapePart, State.foldl_tapePart (fun t k => t.refreshBand_tapePart k),
    State.foldl_tapePart State.freeEntry_tapePart]

theorem settextWork_tapePart (r : EntryIx × List Byte) (s : State) : (settextWork r s).tapePart = s.tapePart := by
  unfold settextWork
  split
  · rw [State.ack_tapePart, State.markEntry_tapePart]
    rfl
  · rfl

theorem setpalWork_tapePart (r : SetIx × Fin 14 × AttrIx) (s : State) : (setpalWork r s).tapePart = s.tapePart := by
  rw [setpalWork, State.handOver_tapePart]
  rfl

theorem continueStatus_tapePart (n done : Nat) (r : StatusReply) (s : State) :
    (continueStatus n done r s).tapePart = s.tapePart := by
  rw [continueStatus_eq]
  split <;> rfl

end Sys2Proof.Machine
end

section
/-! SUPPORT. What each command does to the tape: the prints of ticks, TAPETEXT and TAPESPEED, BAND and SHOW, the frame start and the
resets as chains of the elementary changes; and so every step. -/

namespace Sys2Proof.Machine

open Sys2Proof

/-! ### The step of a request (R173) -/

/-- The step of a request changes the two parts as its work does. -/
theorem request_tapeChanges {α : Type} {kind : Byte} {parse : List Byte → Except Reason α} {work : α → State → State}
    {s t : State} (hw : ∀ p a (u : State), parse p = .ok a → u.tapePart.Changes (work a u).tapePart)
    (h : request kind parse work s = .next t) : s.tapePart.Changes t.tapePart := by
  rcases request_cases h with rfl | ⟨reason, rfl⟩ | ⟨p, a, ha, rfl⟩
  · exact .of_eq s.ready_tapePart
  · exact .of_eq s.ready_tapePart
  · simpa using hw p a s.ready.takeHead ha

/-- The step of a request whose work leaves the two parts alone. -/
theorem request_keeps_tapePart {α : Type} {kind : Byte} {parse : List Byte → Except Reason α} {work : α → State → State}
    {s t : State} (hw : ∀ a (u : State), (work a u).tapePart = u.tapePart) (h : request kind parse work s = .next t) :
    s.tapePart.Changes t.tapePart :=
  request_tapeChanges (fun _ a u _ => .of_eq (hw a u)) h

/-! ### Prints and host text (R44, R157, R158) -/

theorem State.offerPrint_tapeChanges (slot : Slot) (tape : Bool) (it : TickItems) (s : State) :
    s.tapePart.Changes (s.offerPrint slot tape it).tapePart := by
  unfold State.offerPrint
  split
  · split
    · rename_i hoffered
      rcases Nat.lt_or_ge s.tape.queue.length Config.tapeCapacity with hroom | hfull
      · rw [Tape.enqueuePrint_of_lt hroom]
        exact .single (.joined _ hoffered.2 hroom)
      · rw [Tape.enqueuePrint_of_le hfull]
        exact .single (.dropped hoffered.2 hfull)
    · exact .refl
  · exact .refl

theorem State.applyAndPrint_tapeChanges (slot : Slot) (tape : Bool) (it : TickItems) (s : State) :
    s.tapePart.Changes (s.applyAndPrint slot tape it).tapePart := by
  have hprint := State.offerPrint_tapeChanges slot tape it (s.applyTick slot it)
  have happlied : (s.applyTick slot it).tapePart = s.tapePart := by
    rw [State.applyTick, State.handOver_tapePart, State.setRecord_tapePart, State.settled_tapePart]
  rwa [happlied] at hprint

theorem tickWork_tapeChanges (r : TickReq) (s : State) : s.tapePart.Changes (tickWork r s).tapePart := by
  rw [← s.reloadFeed_tapePart]
  unfold tickWork
  dsimp only
  split
  · unfold State.disposeHit
    split
    · exact State.applyAndPrint_tapeChanges _ _ _ _
    · split <;> exact .refl
  · exact .refl

theorem releaseEntries_tapeChanges (l : List Staged) (applied : Nat) (s : State) :
    s.tapePart.Changes (releaseEntries l applied s).2.tapePart := by
  induction l generalizing applied s with
  | nil => exact .refl
  | cons e l ih =>
    unfold releaseEntries
    split
    · exact ih _ _
    · exact (s.applyAndPrint_tapeChanges _ _ _).trans (ih _ _)

theorem continueRelease_tapeChanges (n dealt applied : Nat) (s : State) :
    s.tapePart.Changes (continueRelease n dealt applied s).tapePart := by
  unfold continueRelease
  split
  · exact .of_eq s.settled_tapePart
  · dsimp only
    split <;> exact releaseEntries_tapeChanges _ _ _

theorem execRelease_tapeChanges {n : Nat} {s t : State} (h : execRelease n s = .next t) : s.tapePart.Changes t.tapePart := by
  unfold execRelease at h
  split at h
  · cases h
    exact continueRelease_tapeChanges _ _ _ _
  · exact request_tapeChanges (fun _ _ u _ => continueRelease_tapeChanges n 0 0 u) h
  · exact request_tapeChanges (fun _ _ u _ => continueRelease_tapeChanges n 0 0 u) h
  · cases h
    exact .of_eq s.settled_tapePart

theorem tapetextWork_tapeChanges (text : List Byte) (s : State) : s.tapePart.Changes (tapetextWork text s).tapePart := by
  unfold tapetextWork
  split
  · exact .refl
  · rename_i hshown
    have hshown : s.tapeShown = true := Bool.not_eq_false _ ▸ hshown
    split
    · exact .single (.joined _ hshown ‹_›)
    · exact .single (.dropped hshown (not_lt.mp ‹_›))

/-! ### BAND and SHOW (R141 to R144, R166) -/

theorem State.leaveTape_of_tape (s : State) : s.leaveTape .tape = { s with tape := s.tape.tearDown } := if_pos rfl

theorem State.leaveTape_of_ne {shown : Shows} (h : shown ≠ .tape) (s : State) : s.leaveTape shown = s := if_neg h

/-- A tear-down, whatever the bands then show. -/
theorem State.tearDown_tapeChanges {s t : State} (h : t.tape = s.tape.tearDown) : s.tapePart.Changes t.tapePart := by
  have htorn : t.tapePart = ⟨s.tape.tearDown, t.tapeShown⟩ := by rw [State.tapePart, h]
  rw [htorn]
  exact .single (.tornDown _)

/-- A BAND of height 0 tears the tape down where its band showed it, and is not seen otherwise (R141). -/
theorem State.freeBand_tapeChanges (k : BandIx) (s : State) :
    s.tapePart.Changes (s.freeBand k (s.bands.get k).shows).tapePart := by
  unfold State.freeBand
  by_cases hshown : (s.bands.get k).shows = .tape
  · rw [hshown, State.leaveTape_of_tape]
    exact State.tearDown_tapeChanges rfl
  · rw [State.leaveTape_of_ne hshown, State.modifyBand_tapePart]
    · exact .of_eq (s.clearMarksFor_tapePart k)
    · rw [State.clearMarksFor_bands]
      exact iff_of_false nofun hshown

theorem State.settleBand_tapeChanges (k : BandIx) (height : Nat) (s : State) :
    s.tapePart.Changes (s.settleBand k height (s.bands.get k).shows).tapePart := by
  have hopened : (s.modifyBand k (fun b => { b with curtain := .opened })).tapePart = s.tapePart :=
    State.modifyBand_tapePart Iff.rfl
  unfold State.settleBand
  split
  · exact s.freeBand_tapeChanges k
  · split
    · exact .of_eq hopened
    · exact .of_eq (s.refreshBand_tapePart k)
    · exact .of_eq hopened

theorem bandWork_tapeChanges (r : BandReq) (s : State) : s.tapePart.Changes (bandWork r s).tapePart := by
  unfold bandWork
  split
  · exact .refl
  · split
    · exact .refl
    · have hplaced : (s.modifyBand r.band r.place).tapePart = s.tapePart := State.modifyBand_tapePart Iff.rfl
      have hsettled := (s.modifyBand r.band r.place).settleBand_tapeChanges r.band r.height
      rw [hplaced, State.modifyBand_bands, Table.get_modify_self] at hsettled
      exact hsettled

theorem State.stealFrom_tapePart (k : BandIx) (board : BoardIx) (s : State) (j : BandIx) :
    (s.stealFrom k (.board board) j).tapePart = s.tapePart := by
  unfold State.stealFrom
  split
  · rename_i hs
    rw [State.modifyBand_tapePart, State.clearMarksFor_tapePart]
    rw [State.clearMarksFor_bands, hs.2]
    exact iff_of_false nofun nofun
  · rfl

@[simp] theorem State.stealBoard_tapePart (k : BandIx) (target : Shows) (s : State) :
    (s.stealBoard k target).tapePart = s.tapePart := by
  cases target with
  | board board => exact State.foldl_tapePart (State.stealFrom_tapePart k board) allBands s
  | nothing | tape => rfl

@[simp] theorem State.leaveBoard_tapePart (k : BandIx) (s : State) : (s.leaveBoard k).tapePart = s.tapePart := by
  unfold State.leaveBoard
  split <;> simp

/-- A band that shows no TAPE takes another target. -/
theorem State.takeTarget_tapePart {k : BandIx} {target : Shows} {s : State} (htarget : target ≠ .tape)
    (hshown : (s.bands.get k).shows ≠ .tape) : (s.takeTarget k target).tapePart = s.tapePart := by
  cases target with
  | nothing =>
    rw [State.takeTarget, State.updateWork_tapePart]
    exact State.modifyBand_tapePart (iff_of_false nofun hshown)
  | board board =>
    rw [State.takeTarget, State.updateWork_tapePart, State.refreshBand_tapePart]
    exact State.modifyBand_tapePart (iff_of_false nofun hshown)
  | tape => exact absurd rfl htarget

/-- A band that takes TAPE leaves the tape as it is. -/
theorem State.takeTape_tapeChanges (k : BandIx) (s : State) : s.tapePart.Changes (s.takeTarget k .tape).tapePart := by
  unfold State.takeTarget
  dsimp only
  split
  · exact .refl
  · have hshown : (s.modifyBand k (fun b => { b with shows := .tape, count := 0, curtain := .opened })).tapeShown = true :=
      State.tapeShown_eq_true.mpr ⟨k, by rw [State.modifyBand_bands, Table.get_modify_self]⟩
    rw [State.updateWork_tapePart, State.tapePart, State.tapePart, hshown]
    exact .single .taped

theorem State.takeTarget_tape (k : BandIx) (target : Shows) (s : State) : (s.takeTarget k target).tape = s.tape := by
  cases target with
  | nothing => rfl
  | board board => exact congrArg TapePart.tape ((s.modifyBand k _).refreshBand_tapePart k)
  | tape =>
    unfold State.takeTarget
    dsimp only
    split <;> rfl

/-- A SHOW steals and leaves boards, tears the tape down where its band showed it and is to show something else, and takes its
target. -/
theorem showWork_tapeChanges (r : BandIx × Shows) (s : State) : s.tapePart.Changes (showWork r s).tapePart := by
  obtain ⟨k, target⟩ := r
  unfold showWork
  split
  · exact .refl
  · have hpart : ((s.stealBoard k target).leaveBoard k).tapePart = s.tapePart := by
      rw [State.leaveBoard_tapePart, State.stealBoard_tapePart]
    have hshows : (((s.stealBoard k target).leaveBoard k).bands.get k).shows = (s.bands.get k).shows := by
      rw [State.leaveBoard_bands, State.stealBoard_self]
    dsimp only
    rw [State.ack_tapePart, ← hpart, ← hshows]
    generalize (s.stealBoard k target).leaveBoard k = t
    split
    · rename_i htarget
      rw [htarget]
      exact t.takeTape_tapeChanges k
    · rename_i htarget
      by_cases hshown : (t.bands.get k).shows = .tape
      · rw [hshown, State.leaveTape_of_tape]
        exact State.tearDown_tapeChanges (State.takeTarget_tape _ _ _)
      · rw [State.leaveTape_of_ne hshown]
        exact .of_eq (State.takeTarget_tapePart htarget hshown)

/-! ### The frame start (R161) -/

theorem State.frameWork_tapeChanges (s : State) : s.tapePart.Changes s.frameWork.tapePart := by
  have hwork : s.frameWork.tapePart = ⟨if s.tapeShown then s.tape.frameStart else s.tape, s.tapeShown⟩ := rfl
  rw [hwork]
  split
  · exact .single (.framed ‹_›)
  · exact .refl

theorem State.startFrame_tapeChanges (s : State) : s.tapePart.Changes s.startFrame.tapePart := by
  unfold State.startFrame
  split
  · split
    · exact s.frameWork_tapeChanges
    · exact .refl
  · exact .refl

/-! ### The Link Interface and the Painter's takings -/

theorem State.resetBlocks_tapeChanges (cause : ResetCause) (phase : Phase) (s : State) :
    s.tapePart.Changes (s.resetBlocks cause phase).tapePart := .single .reset

theorem execResetNReleased_tapePart {rate1 rate0 : Bool} {s t : State} (h : execResetNReleased rate1 rate0 s = .next t) :
    t.tapePart = s.tapePart := by
  unfold execResetNReleased at h
  split at h <;> cases h <;> rfl

theorem execInitialisationEnd_tapePart {s t : State} (h : execInitialisationEnd s = .next t) : t.tapePart = s.tapePart := by
  unfold execInitialisationEnd at h
  split at h <;> cases h <;> rfl

theorem execRxdCharacter_tapePart {byte : Byte} {stopHigh : Bool} {s t : State}
    (h : execRxdCharacter byte stopHigh s = .next t) : t.tapePart = s.tapePart := by
  unfold execRxdCharacter at h
  split at h <;> cases h <;> rfl

theorem execFrameGapTimeout_tapePart {s t : State} (h : execFrameGapTimeout s = .next t) : t.tapePart = s.tapePart := by
  unfold execFrameGapTimeout at h
  split at h <;> cases h <;> rfl

theorem execBadFrameAdmission_tapePart {s t : State} (h : execBadFrameAdmission s = .next t) : t.tapePart = s.tapePart := by
  unfold execBadFrameAdmission at h
  split at h <;> cases h <;> simp

theorem execOverrunAdmission_tapePart {s t : State} (h : execOverrunAdmission s = .next t) : t.tapePart = s.tapePart := by
  unfold execOverrunAdmission at h
  split at h <;> cases h <;> simp

theorem execFeedNotice_tapePart {s t : State} (h : execFeedNotice s = .next t) : t.tapePart = s.tapePart := by
  unfold execFeedNotice at h
  split at h <;> cases h <;> simp

theorem execMissNotice_tapePart {s t : State} (h : execMissNotice s = .next t) : t.tapePart = s.tapePart := by
  unfold execMissNotice at h
  split at h
  · cases h
    rw [State.admissionMade_tapePart]
    rfl
  · cases h
    rfl

theorem execUnknownKind_tapePart {s t : State} (h : execUnknownKind s = .next t) : t.tapePart = s.tapePart := by
  unfold execUnknownKind at h
  split at h
  · split at h <;> cases h <;> simp
  · cases h
    exact s.ready_tapePart

theorem execStatus_tapeChanges {n : Nat} {s t : State} (h : execStatus n s = .next t) : s.tapePart.Changes t.tapePart := by
  unfold execStatus at h
  split at h
  · cases h
    exact .of_eq ((continueStatus_tapePart _ _ _ _).trans s.settled_tapePart)
  · exact request_keeps_tapePart (fun _ u => continueStatus_tapePart n 0 _ u) h
  · exact request_keeps_tapePart (fun _ u => continueStatus_tapePart n 0 _ u) h
  · cases h
    exact .of_eq s.settled_tapePart

theorem execTaking_tapePart {s t : State} (h : execTaking s = .next t) : t.tapePart = s.tapePart := by
  unfold execTaking at h
  split at h
  · split at h <;> cases h <;> simp
  · cases h
    exact s.takeOne_tapePart _ _
  · cases h
    rfl
  · cases h
    rfl

/-! ### Every command -/

/-- Every command makes a chain of the elementary changes of the two parts. -/
theorem exec_tapeChanges {c : Instr} {s t : State} (h : exec c s = .next t) : s.tapePart.Changes t.tapePart := by
  cases c with
  | resetNAsserted => cases h; exact s.resetBlocks_tapeChanges .pin .held
  | resetNReleased rate1 rate0 => exact .of_eq (execResetNReleased_tapePart h)
  | initialisationEnd => exact .of_eq (execInitialisationEnd_tapePart h)
  | rxdCharacter byte stopHigh => exact .of_eq (execRxdCharacter_tapePart h)
  | frameGapTimeout => exact .of_eq (execFrameGapTimeout_tapePart h)
  | recordSent => cases h; exact .refl
  | badFrameAdmission => exact .of_eq (execBadFrameAdmission_tapePart h)
  | overrunAdmission => exact .of_eq (execOverrunAdmission_tapePart h)
  | feedNotice => exact .of_eq (execFeedNotice_tapePart h)
  | missNotice => exact .of_eq (execMissNotice_tapePart h)
  | unknownKind => exact .of_eq (execUnknownKind_tapePart h)
  | reset => exact request_tapeChanges (fun _ _ u _ => u.resetBlocks_tapeChanges .message .initialising) h
  | status n => exact execStatus_tapeChanges h
  | define => exact request_keeps_tapePart defineWork_tapePart h
  | clear => exact request_keeps_tapePart clearWork_tapePart h
  | halt => exact request_keeps_tapePart (tradingWork_tapePart _ _) h
  | resume => exact request_keeps_tapePart (tradingWork_tapePart _ _) h
  | setref => exact request_keeps_tapePart setrefWork_tapePart h
  | openDay => exact request_keeps_tapePart (fun _ u => openDayWork_tapePart u) h
  | install => exact request_keeps_tapePart installWork_tapePart h
  | remove => exact request_keeps_tapePart removeWork_tapePart h
  | tick => exact request_tapeChanges (fun _ r u _ => tickWork_tapeChanges r u) h
  | release n => exact execRelease_tapeChanges h
  | heartbeat => exact request_keeps_tapePart (fun _ u => by rw [State.ack_tapePart]; exact u.reloadFeed_tapePart) h
  | watch => exact request_keeps_tapePart watchWork_tapePart h
  | feedWatchExpiry => cases h; exact .of_eq (s.settled.expire_tapePart.trans s.settled_tapePart)
  | heatScanStep => cases h; exact .of_eq (s.settled.scanStep_tapePart.trans s.settled_tapePart)
  | map => exact request_keeps_tapePart mapWork_tapePart h
  | unmap => exact request_keeps_tapePart unmapWork_tapePart h
  | mflush => exact request_keeps_tapePart mflushWork_tapePart h
  | settext => exact request_keeps_tapePart settextWork_tapePart h
  | setpal => exact request_keeps_tapePart setpalWork_tapePart h
  | band => exact request_tapeChanges (fun _ r u _ => bandWork_tapeChanges r u) h
  | showBand => exact request_tapeChanges (fun _ r u _ => showWork_tapeChanges r u) h
  | tapetext => exact request_tapeChanges (fun _ text u _ => tapetextWork_tapeChanges text u) h
  | tapespeed =>
    exact request_tapeChanges (fun _ speed _ hp => .single (.speeded speed (oneClamped_range (by decide) hp))) h
  | query | dflush | dprobe | mpurge | discard | mprobe | mfind | setattr | heatcfg | blink | paint =>
    exact request_keeps_tapePart (by exact fun _ _ => rfl) h
  | frameStart => cases h; exact s.settled_tapePart ▸ s.settled.startFrame_tapeChanges
  | bandClear k => cases h; exact .of_eq (by simp)
  | taking => exact .of_eq (execTaking_tapePart h)
  | curtainRelease k => cases h; exact .of_eq (by simp)
  | rasterReading => cases h; exact .of_eq (by simp)

/-- So does every step: with no command waiting there is none. -/
theorem step_tapeChanges {s t : State} (h : step s = .next t) : s.tapePart.Changes t.tapePart := by
  unfold step at h
  split at h
  · cases h
    exact .refl
  · have hc := exec_tapeChanges h
    exact hc

end Sys2Proof.Machine

open Sys2Proof Sys2Proof.Machine

/-- Settles O57: every step makes a chain of elementary changes of the tape and of whether it is shown, and each of them keeps the
bounds. -/
theorem tapeStaysLawful : Obligations.TapeStaysLawful := fun _ _ hs h =>
  State.tapeLawful_iff.mpr ((step_tapeChanges h).keeps_lawful (State.tapeLawful_iff.mp hs))
end

section
/-! SUPPORT. The receiver, byte by byte (R170 to R172), the ready line, and the end of a record's sending. -/

namespace Sys2Proof.Machine

open Sys2Proof

/-! ### The latches and the ready line (R171, R172) -/

theorem Link.badFrameEvent_eq (kind : Byte) (l : Link) :
    l.badFrameEvent kind = { l with badFrame := l.badFrame.or (some kind) } := by
  obtain ⟨_, _, _, _, _, _, badFrame, _, _⟩ := l
  cases badFrame <;> rfl

theorem Link.overrunEvent_eq (kind : Byte) (l : Link) :
    l.overrunEvent kind = { l with overrun := l.overrun.or (some kind) } := by
  obtain ⟨_, _, _, _, _, _, _, overrun, _⟩ := l
  cases overrun <;> rfl

theorem State.rdy_iff {s : State} : s.rdy = true ↔ s.link.phase = .running ∧ s.link.inbound.length < 8 := by
  rw [State.rdy, Bool.and_eq_true, decide_eq_true_eq, decide_eq_true_eq, and_comm, Config.inboundCapacity]

/-! ### What the gathered bytes say (R169, R170) -/

/-- The kind of a frame being gathered is its second byte, 00h while there is none. -/
theorem gatheredKind_eq (got : List Byte) : gatheredKind got = got.getD 1 0x00 := by
  match got with
  | [] | [_] | _ :: _ :: _ => rfl

/-- The first byte gathered is LEN. -/
theorem fieldAt_zero_one (got : List Byte) : fieldAt got 0 1 = (got.getD 0 0).toNat := by
  cases got with
  | nil => rfl
  | cons len rest => exact fieldAt_cons_zero len rest

theorem isWhole_iff {got : List Byte} : isWhole got = true ↔ got.length = (got.getD 0 0).toNat + 3 := by
  rw [isWhole, decide_eq_true_eq, fieldAt_zero_one]

theorem goodSum_iff {got : List Byte} : goodSum got = true ↔ (got.map (fun x => x.toNat)).sum % 256 = 0 := by
  rw [goodSum, decide_eq_true_eq]

theorem gatheredFrame_eq (got : List Byte) :
    gatheredFrame got = ⟨got.getD 1 0x00, (got.drop 2).take (got.getD 0 0).toNat⟩ := by
  rw [gatheredFrame, gatheredKind_eq, fieldAt_zero_one]

/-! ### A byte inside a frame (R170, R171) -/

theorem Link.discardFrame_eq (got : List Byte) (l : Link) :
    l.discardFrame got = { l with receiver := .hunting, badFrame := l.badFrame.or (some (got.getD 1 0x00)) } := by
  rw [Link.discardFrame, Link.badFrameEvent_eq, gatheredKind_eq]

/-- A byte inside a frame, by LEN, the number of the bytes and their sum. -/
theorem Link.gather_eq (got : List Byte) (l : Link) :
    l.gather got =
      if 248 < (got.getD 0 0).toNat then l.discardFrame got
      else if got.length = (got.getD 0 0).toNat + 3 then
        if (got.map (fun x => x.toNat)).sum % 256 = 0 then
          { l.offerFrame (gatheredFrame got) with receiver := .hunting }
        else l.discardFrame got
      else { l with receiver := .gathering got } := by
  simp only [Link.gather, isWhole_iff, goodSum_iff, fieldAt_zero_one, Config.maxLen]

theorem Link.gather_of_long {got : List Byte} (hlen : 248 < (got.getD 0 0).toNat) (l : Link) :
    l.gather got = l.discardFrame got := by
  rw [Link.gather_eq, if_pos hlen]

section
variable {got : List Byte} (hlen : (got.getD 0 0).toNat ≤ 248)
include hlen

theorem Link.gather_of_not_whole (hpart : got.length ≠ (got.getD 0 0).toNat + 3) (l : Link) :
    l.gather got = { l with receiver := .gathering got } := by
  rw [Link.gather_eq, if_neg (not_lt.mpr hlen), if_neg hpart]

variable (hwhole : got.length = (got.getD 0 0).toNat + 3)
include hwhole

theorem Link.gather_of_bad_sum (hsum : (got.map (fun x => x.toNat)).sum % 256 ≠ 0) (l : Link) :
    l.gather got = l.discardFrame got := by
  rw [Link.gather_eq, if_neg (not_lt.mpr hlen), if_pos hwhole, if_neg hsum]

/-- A whole frame with a good sum is offered to the Inbound Queue. -/
theorem Link.gather_of_good_sum (hsum : (got.map (fun x => x.toNat)).sum % 256 = 0) (l : Link) :
    l.gather got = { l.offerFrame (gatheredFrame got) with receiver := .hunting } := by
  rw [Link.gather_eq, if_neg (not_lt.mpr hlen), if_pos hwhole, if_pos hsum]

end

theorem Link.offerFrame_of_lt {l : Link} (h : l.inbound.length < 8) (f : LinkFrame) :
    l.offerFrame f = { l with inbound := l.inbound ++ [f] } := if_pos h

theorem Link.offerFrame_of_le {l : Link} (h : 8 ≤ l.inbound.length) (f : LinkFrame) :
    l.offerFrame f = { l with overrun := l.overrun.or (some f.kind) } := by
  rw [Link.offerFrame, Config.inboundCapacity, if_neg (not_lt.mpr h), Link.overrunEvent_eq]

/-! ### A character, and a gap (R168, R170) -/

theorem Link.receive_of_hunting {l : Link} (h : l.receiver = .hunting) (byte : Byte) (stopHigh : Bool) :
    l.receive byte stopHigh = if stopHigh = true ∧ byte = 0xA5 then { l with receiver := .gathering [] } else l := by
  rw [Link.receive, h]
  rfl

theorem Link.receive_of_gathering {l : Link} {got : List Byte} (h : l.receiver = .gathering got) (byte : Byte) :
    l.receive byte true = l.gather (got ++ [byte]) := by
  rw [Link.receive, h]
  rfl

theorem Link.receive_of_line_error {l : Link} {got : List Byte} (h : l.receiver = .gathering got) (byte : Byte) :
    l.receive byte false = l.discardFrame got := by
  rw [Link.receive, h]
  rfl

theorem exec_rxdCharacter_of_running {s : State} (h : s.link.phase = .running) (byte : Byte) (stopHigh : Bool) :
    exec (.rxdCharacter byte stopHigh) s = .next (s.setLink (s.link.receive byte stopHigh)) := if_pos h

theorem exec_rxdCharacter_of_not_running {s : State} (h : s.link.phase ≠ .running) (byte : Byte) (stopHigh : Bool) :
    exec (.rxdCharacter byte stopHigh) s = .next s := if_neg h

theorem exec_frameGapTimeout_of_gathering {s : State} {got : List Byte} (h : s.link.receiver = .gathering got) :
    exec .frameGapTimeout s = .next (s.setLink (s.link.discardFrame got)) := by
  rw [exec, execFrameGapTimeout, h]

theorem exec_frameGapTimeout_of_hunting {s : State} (h : s.link.receiver = .hunting) :
    exec .frameGapTimeout s = .next s := by
  rw [exec, execFrameGapTimeout, h]

end Sys2Proof.Machine

open Sys2Proof Sys2Proof.Machine

/-- Settles O8: a character by what the receiver does and by what the byte makes of the frame gathered, then the gap, the record
sent and the ready line. -/
theorem receiverAndTransmitter : Obligations.ReceiverAndTransmitter := by
  refine ⟨⟨fun s b good hrun => exec_rxdCharacter_of_not_running hrun b good, fun s b good hrun hhunt => ?_,
    fun s b got hrun hgot => ?_, fun s b got all hrun hgot hall => ?_⟩, fun s got hgot => ?_,
    fun s hhunt => exec_frameGapTimeout_of_hunting hhunt, fun s => rfl, fun s => State.rdy_iff⟩
  · rw [exec_rxdCharacter_of_running hrun, Link.receive_of_hunting hhunt]
    split <;> rfl
  · rw [exec_rxdCharacter_of_running hrun, Link.receive_of_line_error hgot, Link.discardFrame_eq]
    rfl
  · rw [exec_rxdCharacter_of_running hrun, Link.receive_of_gathering hgot, ← hall]
    refine ⟨fun hlong => ?_, fun hlen hpart => ?_, fun hlen hwhole hsum => ?_, fun hlen hwhole hsum hroom => ?_,
      fun hlen hwhole hsum hfull => ?_⟩
    · rw [Link.gather_of_long hlong, Link.discardFrame_eq]
      rfl
    · rw [Link.gather_of_not_whole hlen hpart]
      rfl
    · rw [Link.gather_of_bad_sum hlen hwhole hsum, Link.discardFrame_eq]
      rfl
    · rw [Link.gather_of_good_sum hlen hwhole hsum, gatheredFrame_eq, Link.offerFrame_of_lt hroom]
      rfl
    · rw [Link.gather_of_good_sum hlen hwhole hsum, gatheredFrame_eq, Link.offerFrame_of_le hfull]
      rfl
  · rw [exec_frameGapTimeout_of_gathering hgot, Link.discardFrame_eq]
    rfl
end

section
/-! SUPPORT. The frames of the records, byte by byte and field by field (R169, sections 10.6 and 10.7), and the answers to a frame of
an unknown kind and to a STATUS. -/

namespace Sys2Proof.Machine

open Sys2Proof

/-! ### Frames and numbers (R169, section 1.4) -/

/-- CHECK completes the sum of a frame to 0 modulo 256. -/
theorem sum_checkByte (kind : Byte) (payload : List Byte) :
    (payload.length + kind.toNat + (payload.map (fun b => b.toNat)).sum + (checkByte kind payload).toNat) % 256 = 0 := by
  rw [checkByte, BitVec.toNat_ofNat]
  omega

theorem frameBytes_eq (kind : Byte) (payload : List Byte) :
    frameBytes kind payload = [0xA5, BitVec.ofNat 8 payload.length, kind] ++ payload ++ [checkByte kind payload] := rfl

theorem beBytes_one (v : Nat) : beBytes 1 v = [BitVec.ofNat 8 v] := rfl

theorem beBytes_two (v : Nat) : beBytes 2 v = [BitVec.ofNat 8 (v / 256), BitVec.ofNat 8 v] := rfl

theorem beBytes_four (v : Nat) :
    beBytes 4 v = [BitVec.ofNat 8 (v / 16777216), BitVec.ofNat 8 (v / 65536), BitVec.ofNat 8 (v / 256), BitVec.ofNat 8 v] := by
  simp [beBytes, Nat.div_div_eq_div_mul]

theorem mul_flagBit (n : Nat) (b : Bool) : n * flagBit b = if b then n else 0 := by
  cases b <;> simp [flagBit]

/-- Texts are sent in fields of fixed length. -/
theorem length_padSpaces {n : Nat} {bs : List Byte} (h : bs.length ≤ n) : (padSpaces n bs).length = n := by
  rw [padSpaces, List.length_append, List.length_replicate]
  omega

/-! ### What the transmitter sends (R175) -/

theorem State.sending_of_nil {s : State} (h : s.link.outbound = []) : s.sending = none := by
  rw [State.sending, h]
  rfl

theorem State.sending_of_cons {s : State} {r : Record} {rest : List Record} (h : s.link.outbound = r :: rest) :
    s.sending = some r.bytes := by
  rw [State.sending, h]
  rfl

/-! ### The payloads of the catalogue (section 10.7) -/

/-- The reasons a REJECT carries and their codes (section 10.6). -/
theorem Reason.code_of_mem {r : Reason} {code : Byte} (h : ((r, code) : Reason × Byte) ∈ [(.badFrame, 0x01), (.badLength, 0x02),
      (.unknownKind, 0x03), (.range, 0x04), (.badState, 0x05), (.noSlot, 0x06), (.inUse, 0x07), (.duplicate, 0x08),
      (.conflict, 0x09), (.full, 0x0A), (.overlap, 0x0B), (.stageFull, 0x0C), (.overrun, 0x0D)]) :
    BitVec.ofNat 8 r.code = code := by
  revert code
  cases r <;> decide

theorem RecState.code_of_mem {q : RecState} {n : Nat}
    (h : ((q, n) : RecState × Nat) ∈ [(.empty, 0), (.active, 1), (.halted, 2)]) : q.code = n := by
  cases q <;> simp_all [RecState.code]

theorem Direction.code_of_mem {d : Direction} {n : Nat}
    (h : ((d, n) : Direction × Nat) ∈ [(.none, 0), (.up, 1), (.down, 2)]) : d.code = n := by
  cases d <;> simp_all [Direction.code]

theorem Format.code_of_cases {f : Format} {n : Nat} (h : (∃ k : Fin 7, f = .dec k ∧ n = k.val) ∨ (f = .f32h ∧ n = 8)
    ∨ (f = .f32e ∧ n = 9) ∨ (f = .f8 ∧ n = 10)) : f.code = n := by
  rcases h with ⟨k, rfl, rfl⟩ | ⟨rfl, rfl⟩ | ⟨rfl, rfl⟩ | ⟨rfl, rfl⟩ <;> rfl

/-- The presence byte of a QUOTE has one bit for each price. -/
theorem presence_eq (q : Quote) : presence q =
    (if q.last.isSome then 1 else 0) + (if q.reference.isSome then 2 else 0) + (if q.bid.isSome then 4 else 0)
      + (if q.ask.isSome then 8 else 0) + (if q.high.isSome then 16 else 0) + (if q.low.isSome then 32 else 0) := by
  simp only [presence, mul_flagBit]
  rfl

theorem quotePayload_eq (slot : Slot) (q : Quote) : quotePayload slot q =
    beBytes 2 slot.val ++ beBytes 1 q.state.code ++ beBytes 1 q.format.code ++ beBytes 1 q.symbol.length ++ q.symbol
      ++ List.replicate (8 - q.symbol.length) 0x20
      ++ beBytes 1 ((if q.last.isSome then 1 else 0) + (if q.reference.isSome then 2 else 0)
        + (if q.bid.isSome then 4 else 0) + (if q.ask.isSome then 8 else 0) + (if q.high.isSome then 16 else 0)
        + (if q.low.isSome then 32 else 0))
      ++ beBytes 4 (q.last.getD 0) ++ beBytes 4 (q.reference.getD 0) ++ beBytes 4 (q.bid.getD 0)
      ++ beBytes 4 (q.ask.getD 0) ++ beBytes 4 (q.high.getD 0) ++ beBytes 4 (q.low.getD 0) ++ beBytes 4 q.volume
      ++ beBytes 1 q.heat ++ beBytes 1 q.direction.code := by
  rw [← presence_eq, quotePayload, padSpaces, ← List.append_assoc]
  rfl

theorem length_quotePayload (slot : Slot) {q : Quote} (h : q.symbol.length ≤ 8) : (quotePayload slot q).length = 44 := by
  simp only [quotePayload, priceBytes, List.length_append, length_beBytes, length_padSpaces h]

theorem fieldPayload_eq (r : FieldReply) : fieldPayload r =
    beBytes 1 (if r.found then 1 else 0) ++ beBytes 1 r.index ++ beBytes 1 r.state ++ beBytes 1 r.placement
      ++ beBytes 2 r.slot ++ beBytes 1 r.item ++ beBytes 1 r.row ++ beBytes 1 r.column ++ beBytes 1 r.width
      ++ beBytes 1 r.palette ++ beBytes 1 (if r.steady then 1 else 0) ++ beBytes 1 (if r.dirty then 1 else 0)
      ++ r.unpainted.flatMap (fun m => beBytes 1 (if m then 1 else 0)) ++ beBytes 1 r.text.length ++ r.text
      ++ List.replicate (16 - r.text.length) 0x20 := by
  rw [fieldPayload, padSpaces, ← List.append_assoc]
  rfl

theorem length_fieldPayload {r : FieldReply} (hmarks : r.unpainted.length = 4) (htext : r.text.length ≤ 16) :
    (fieldPayload r).length = 34 := by
  simp only [fieldPayload, List.length_append, List.length_flatMap, length_beBytes, length_padSpaces htext,
    List.map_const', List.sum_replicate, hmarks, smul_eq_mul]

/-! ### A frame of an unknown kind (R173) -/

/-- A frame of a kind that the catalogue does not list is taken and refused. -/
theorem exec_unknownKind_of_offers {s : State} {kind : Byte} {p : List Byte} (h : s.Offers kind p)
    (hkind : kind ∉ Kind.requests) : exec .unknownKind s = .next (s.answered (.reject kind .unknownKind)) := by
  rw [exec, execUnknownKind, State.ready_of_offers h, State.headFrame_of_offers h]
  exact if_neg hkind

/-! ### A STATUS whose reads are made together (R178) -/

/-- The eleven reads of a STATUS of the values as they stand. -/
def State.statusReply (s : State) : StatusReply where
  cause := s.link.cause.code
  feed := s.intake.watch.code
  staging := s.intake.staging.length
  misses := s.directory.misses.length
  overflow := flagBit s.directory.overflow
  dirty := s.painter.dirty.length
  tape := s.tape.queue.length
  late := flagBit s.tape.late
  inbound := min s.link.inbound.length 7
  budget := s.painter.budget
  flashHeat := s.colour.flashHeat

/-- All the reads together leave nothing of the reply they begin with. -/
theorem StatusReply.readOn_all {n : Nat} (h : statusReads ≤ n) (r : StatusReply) (s : State) :
    r.readOn s 0 n = s.statusReply := by
  rw [StatusReply.readOn, Nat.sub_zero, min_eq_right h]
  rfl

theorem continueStatus_all {n : Nat} (h : statusReads ≤ n) (r : StatusReply) {s : State} (hidle : s.carrying = .idle) :
    continueStatus n 0 r s = s.reply (.status s.statusReply) := by
  have hs : s.withCarrying .idle = s := by rw [← hidle]; rfl
  rw [continueStatus_eq, if_pos (by omega), hs, StatusReply.readOn_all h]

/-- The depth of the Inbound Queue that a STATUS answers with is that of the frames behind its own. -/
theorem exec_status_of_offers {s : State} {n : Nat} (h : s.Offers Kind.status []) (hn : statusReads ≤ n) :
    exec (.status n) s = .next (s.answered (.status s.takeHead.statusReply)) := by
  have ⟨_, hidle, _⟩ := h
  rw [exec, execStatus, hidle]
  dsimp only
  rw [request_ok h noFields_nil, continueStatus_all (s := s.takeHead) hn _ hidle]
  rfl

end Sys2Proof.Machine

open Sys2Proof Sys2Proof.Machine

/-- Settles O10: the frame and its CHECK, the record at the head, the numbers; then the records of the catalogue, of which QUOTE and
FIELD hold a text of fixed length. -/
theorem framesSent : Obligations.FramesSent := by
  refine ⟨⟨fun kind payload hlen => ⟨checkByte kind payload, frameBytes_eq kind payload, sum_checkByte kind payload⟩,
    fun s h => State.sending_of_nil h, fun s r rest h => State.sending_of_cons h, fun r => rfl,
    fun v => ⟨beBytes_one v, beBytes_two v, beBytes_four v⟩⟩, fun kind value => ⟨rfl, rfl⟩, fun kind r code hcode => ?_,
    fun r => ⟨rfl, rfl⟩, fun slot q state format direction hsymbol hstate hformat hdirection => ?_, fun r => ⟨rfl, rfl⟩,
    fun r hmarks htext => ⟨?_, length_fieldPayload hmarks htext⟩, fun c => ⟨?_, rfl⟩, fun v c => ⟨rfl, rfl⟩,
    fun c => ⟨rfl, rfl⟩⟩
  · rw [← Reason.code_of_mem hcode]
    exact ⟨rfl, rfl⟩
  · rw [← RecState.code_of_mem hstate, ← Format.code_of_cases hformat, ← Direction.code_of_mem hdirection, ← quotePayload_eq]
    exact ⟨rfl, length_quotePayload slot hsymbol⟩
  · rw [← fieldPayload_eq]
    rfl
  · cases c <;> rfl

/-- Settles O12: the frame of an unknown kind is taken and refused, and a STATUS answers with its eleven reads of the values left once
its frame is taken. -/
theorem unknownKindAndStatus : Obligations.UnknownKindAndStatus :=
  ⟨fun _ _ _ h hkind => exec_unknownKind_of_offers h hkind, fun _ _ h hreads => exec_status_of_offers h hreads⟩
end

section
/-! SUPPORT. Characters received one after another, and the frame that they bring (R169 to R171). -/

namespace Sys2Proof.Machine

open Sys2Proof

/-! ### Characters in turn (R168, R170) -/

/-- The Link Interface with the receiver written. -/
def Link.withReceiver (r : Receiver) (l : Link) : Link := { l with receiver := r }

@[simp] theorem Link.withReceiver_receiver (r : Receiver) (l : Link) : (l.withReceiver r).receiver = r := rfl
@[simp] theorem Link.withReceiver_inbound (r : Receiver) (l : Link) : (l.withReceiver r).inbound = l.inbound := rfl
@[simp] theorem Link.withReceiver_withReceiver (r r' : Receiver) (l : Link) :
    (l.withReceiver r).withReceiver r' = l.withReceiver r' := rfl

theorem Link.withReceiver_self {l : Link} {r : Receiver} (h : l.receiver = r) : l.withReceiver r = l := by
  rw [← h]
  rfl

/-- The Link Interface after characters with good stop bits. -/
def Link.receiveAll (bytes : List Byte) (l : Link) : Link := bytes.foldl (fun m byte => m.receive byte true) l

theorem Link.receiveAll_cons (byte : Byte) (bytes : List Byte) (l : Link) :
    l.receiveAll (byte :: bytes) = (l.receive byte true).receiveAll bytes := rfl

theorem Link.receiveAll_singleton (byte : Byte) (l : Link) : l.receiveAll [byte] = l.receive byte true := rfl

theorem Link.receiveAll_append (a b : List Byte) (l : Link) : l.receiveAll (a ++ b) = (l.receiveAll a).receiveAll b :=
  List.foldl_append

/-- A run begins with its first step. -/
theorem run_succ_of_next {s t : State} (h : step s = .next t) (k : Nat) :
    Host.Core.run core (k + 1) s = Host.Core.run core k t := by
  have hcore : core.step s = .next t := h
  simp only [Host.Core.run, hcore]

/-- A running part whose waiting commands are characters receives them all. -/
theorem run_rxdCharacters (bytes : List Byte) {s : State} (hrun : s.link.phase = .running) :
    Host.Core.run core bytes.length { s with pending := bytes.map (fun b => Instr.rxdCharacter b true) } =
      .next { s with pending := [], link := s.link.receiveAll bytes } := by
  induction bytes generalizing s with
  | nil => rfl
  | cons b bytes ih =>
    have hstep : step { s with pending := (b :: bytes).map (fun b => Instr.rxdCharacter b true) } =
        .next { s with
          pending := bytes.map (fun b => Instr.rxdCharacter b true)
          link := s.link.receive b true } :=
      exec_rxdCharacter_of_running (s := { s with pending := bytes.map (fun b => Instr.rxdCharacter b true) }) hrun b true
    have hphase : (s.link.receive b true).phase = .running := (Link.receives_receive b true s.link).phase.trans hrun
    rw [List.length_cons, run_succ_of_next hstep]
    exact ih (s := { s with link := s.link.receive b true }) hphase

/-! ### The bytes of one frame (R169, R170) -/

/-- A byte that does not make the frame whole joins those gathered behind LEN. -/
theorem Link.receive_of_not_whole {len : Byte} (hlen : len.toNat ≤ 248) {got : List Byte} {l : Link}
    (hgot : l.receiver = .gathering (len :: got)) (hpart : got.length + 1 < len.toNat + 2) (byte : Byte) :
    l.receive byte true = l.withReceiver (.gathering (len :: (got ++ [byte]))) := by
  have hnot : (len :: (got ++ [byte])).length ≠ len.toNat + 3 := by
    rw [List.length_cons, List.length_append, List.length_singleton]
    omega
  exact (Link.receive_of_gathering hgot byte).trans (Link.gather_of_not_whole (got := len :: (got ++ [byte])) hlen hnot l)

/-- So do several such bytes. -/
theorem Link.receiveAll_of_not_whole {len : Byte} (hlen : len.toNat ≤ 248) (bytes : List Byte) {got : List Byte} {l : Link}
    (hgot : l.receiver = .gathering (len :: got)) (hpart : got.length + bytes.length < len.toNat + 2) :
    l.receiveAll bytes = l.withReceiver (.gathering (len :: (got ++ bytes))) := by
  induction bytes generalizing got l with
  | nil =>
    rw [List.append_nil]
    exact (Link.withReceiver_self hgot).symm
  | cons b bytes ih =>
    rw [List.length_cons] at hpart
    have hrest : (got ++ [b]).length + bytes.length < len.toNat + 2 := by
      rw [List.length_append, List.length_singleton]
      omega
    rw [Link.receiveAll_cons, Link.receive_of_not_whole hlen hgot (by omega), ih (Link.withReceiver_receiver _ l) hrest,
      Link.withReceiver_withReceiver, List.append_assoc, List.singleton_append]

/-- SYNC and LEN leave a hunting receiver with LEN gathered. -/
theorem Link.receiveAll_sync_len {len : Byte} (hlen : len.toNat ≤ 248) {l : Link} (hhunt : l.receiver = .hunting) :
    l.receiveAll [0xA5, len] = l.withReceiver (.gathering [len]) := by
  have hsync : l.receive 0xA5 true = l.withReceiver (.gathering []) :=
    (Link.receive_of_hunting hhunt 0xA5 true).trans (if_pos ⟨rfl, rfl⟩)
  have hnot : ([len] : List Byte).length ≠ len.toNat + 3 := by
    rw [List.length_singleton]
    omega
  rw [Link.receiveAll_cons, hsync, Link.receiveAll_singleton, Link.receive_of_gathering (Link.withReceiver_receiver _ l)]
  exact Link.gather_of_not_whole (got := [len]) hlen hnot _

/-- LEN, KIND, payload and CHECK gathered are the frame. -/
theorem gatheredFrame_whole {len kind check : Byte} {payload : List Byte} (hlen : len.toNat = payload.length) :
    gatheredFrame (len :: kind :: payload ++ [check]) = ⟨kind, payload⟩ := by
  rw [gatheredFrame_eq]
  congr 1
  exact List.take_left' hlen.symm

/-- The CHECK byte completes the frame gathered, and it joins the Inbound Queue. -/
theorem Link.receive_check {len kind check : Byte} {payload : List Byte} {l : Link} (hlen : len.toNat = payload.length)
    (hmax : payload.length ≤ 248) (hgot : l.receiver = .gathering (len :: kind :: payload))
    (hsum : (payload.length + kind.toNat + (payload.map (fun b => b.toNat)).sum + check.toNat) % 256 = 0)
    (hroom : l.inbound.length < 8) :
    l.receive check true = { l.withReceiver .hunting with inbound := l.inbound ++ [⟨kind, payload⟩] } := by
  have hwhole : (len :: kind :: payload ++ [check]).length = len.toNat + 3 := by simp [hlen]
  have htotal : ((len :: kind :: payload ++ [check]).map (fun x => x.toNat)).sum % 256 = 0 := by
    simpa [hlen, Nat.add_assoc] using hsum
  rw [Link.receive_of_gathering hgot,
    Link.gather_of_good_sum (got := len :: kind :: payload ++ [check]) (hlen.trans_le hmax) hwhole htotal,
    gatheredFrame_whole hlen, Link.offerFrame_of_lt hroom]
  rfl

/-- The bytes of a frame bring it to a hunting receiver with a free place. -/
theorem Link.receiveAll_frameBytes (kind : Byte) {payload : List Byte} (hmax : payload.length ≤ 248) {l : Link}
    (hhunt : l.receiver = .hunting) (hroom : l.inbound.length < 8) :
    l.receiveAll (frameBytes kind payload) = { l with inbound := l.inbound ++ [⟨kind, payload⟩] } := by
  have hlen : (BitVec.ofNat 8 payload.length).toNat = payload.length := Nat.mod_eq_of_lt (by omega)
  have hbytes : frameBytes kind payload =
      [0xA5, BitVec.ofNat 8 payload.length] ++ ((kind :: payload) ++ [checkByte kind payload]) := rfl
  have hpart : ([] : List Byte).length + (kind :: payload).length < (BitVec.ofNat 8 payload.length).toNat + 2 := by
    rw [hlen, List.length_nil, List.length_cons]
    omega
  rw [hbytes, Link.receiveAll_append, Link.receiveAll_sync_len (hlen.trans_le hmax) hhunt, Link.receiveAll_append,
    Link.receiveAll_of_not_whole (hlen.trans_le hmax) (kind :: payload) (Link.withReceiver_receiver _ l) hpart,
    Link.withReceiver_withReceiver, Link.receiveAll_singleton, List.nil_append,
    Link.receive_check hlen hmax (Link.withReceiver_receiver _ l) (sum_checkByte kind payload) hroom,
    Link.withReceiver_withReceiver, Link.withReceiver_self hhunt, Link.withReceiver_inbound]

theorem length_frameBytes (kind : Byte) (payload : List Byte) : (frameBytes kind payload).length = payload.length + 4 := by
  simp [frameBytes]

end Sys2Proof.Machine

open Sys2Proof Sys2Proof.Machine

/-- Settles O9: the part receives the characters one after another, and by the CHECK byte they have brought the frame. -/
theorem frameRoundTrip : Obligations.FrameRoundTrip := by
  intro s kind payload hlen hrun hhunt hroom
  rw [← length_frameBytes kind payload, run_rxdCharacters _ hrun, Link.receiveAll_frameBytes kind hlen hhunt hroom]
end

section
/-! SUPPORT. The waiting commands: a step takes the front one, and every command answers a next state and leaves the others alone. -/

namespace Sys2Proof.Machine

open Sys2Proof

/-! ### The front of the queue -/

theorem step_of_cons {s : State} {c : Instr} {rest : List Instr} (h : s.pending = c :: rest) :
    step s = exec c { s with pending := rest } := by
  rw [step, h]

theorem step_of_nil {s : State} (h : s.pending = []) : step s = .next s := by
  rw [step, h]

/-! ### Answers, marks and the Feed Watch leave the waiting commands alone -/

theorem State.foldl_pending {α : Type} {f : State → α → State} (h : ∀ s a, (f s a).pending = s.pending) (l : List α) (s : State) :
    (l.foldl f s).pending = s.pending := by
  induction l generalizing s with
  | nil => rfl
  | cons a l ih => rw [List.foldl_cons, ih, h]

@[simp] theorem State.ack_pending (kind : Byte) (value : Nat) (s : State) : (s.ack kind value).pending = s.pending := rfl

@[simp] theorem State.reject_pending (kind : Byte) (reason : Reason) (s : State) :
    (s.reject kind reason).pending = s.pending := rfl

@[simp] theorem State.placed_pending (s : State) : s.placed.pending = s.pending := by
  unfold State.placed
  split <;> rfl

@[simp] theorem State.admissionMade_pending (s : State) : s.admissionMade.pending = s.pending := by
  unfold State.admissionMade
  split
  · rfl
  · exact s.placed_pending

@[simp] theorem State.ready_pending (s : State) : s.ready.pending = s.pending := by
  rw [State.ready, State.placed_pending, State.settled_pending]

@[simp] theorem State.markEntry_pending (s : State) (i : EntryIx) : (s.markEntry i).pending = s.pending := by
  rw [State.markEntry_eq, State.queued_pending]

@[simp] theorem State.markWhere_pending (p : Field → Bool) (s : State) : (s.markWhere p).pending = s.pending := by
  rw [State.markWhere_eq, State.queued_pending]

@[simp] theorem State.markItems_pending (slot : Slot) (items : List Item) (s : State) :
    (s.markItems slot items).pending = s.pending := by
  obtain ⟨new, h⟩ := State.markItems_queued slot items s
  rw [h, State.queued_pending]

@[simp] theorem State.carryOut_pending (m : Marks) (s : State) : (s.carryOut m).pending = s.pending := by
  cases m with
  | lookups slot items => exact s.markItems_pending slot items
  | sweep set attr => exact s.markWhere_pending (inPalette set)

@[simp] theorem State.handOver_pending (m : Marks) (s : State) : (s.handOver m).pending = s.pending := by
  unfold State.handOver
  split
  · rfl
  · exact s.carryOut_pending m

@[simp] theorem State.feedChanged_pending (s : State) : s.feedChanged.pending = s.pending :=
  s.markWhere_pending fun f => priceBearing f.item

@[simp] theorem State.reloadFeed_pending (s : State) : s.reloadFeed.pending = s.pending := by
  unfold State.reloadFeed
  split <;> simp

@[simp] theorem State.expire_pending (s : State) : s.expire.pending = s.pending := by
  unfold State.expire
  split <;> simp

/-! ### Commands that answer a next state and leave the waiting commands alone -/

/-- The outcome of a command carried out on this state is a next state, in which the same commands wait. -/
def State.KeepsWaiting (s : State) (o : Host.Outcome State Fault Refusal) : Prop := ∃ t, o = .next t ∧ t.pending = s.pending

theorem State.keepsWaiting_next {s t : State} (h : t.pending = s.pending) : s.KeepsWaiting (.next t) := ⟨t, rfl, h⟩

theorem State.keepsWaiting_self (s : State) : s.KeepsWaiting (.next s) := State.keepsWaiting_next rfl

/-- The step of a request leaves the waiting commands alone where its work does. -/
theorem request_keepsWaiting {α : Type} {work : α → State → State} (hw : ∀ a (u : State), (work a u).pending = u.pending)
    (kind : Byte) (parse : List Byte → Except Reason α) (s : State) : s.KeepsWaiting (request kind parse work s) := by
  obtain ⟨t, ht⟩ := request_next kind parse work s
  refine ⟨t, ht, ?_⟩
  rcases request_cases ht with rfl | ⟨reason, rfl⟩ | ⟨p, a, -, rfl⟩
  · exact s.ready_pending
  · exact s.ready_pending
  · rw [hw, State.takeHead_pending, State.ready_pending]

/-! ### The Instrument Table, the Symbol Directory and the Colour Unit -/

theorem clearWork_pending (slot : Slot) (s : State) : (clearWork slot s).pending = s.pending := by
  unfold clearWork
  split <;> simp

theorem tradingWork_pending (kind : Byte) (state : RecState) (slot : Slot) (s : State) :
    (tradingWork kind state slot s).pending = s.pending := by
  unfold tradingWork
  split <;> simp

theorem setrefWork_pending (r : Slot × Option Nat) (s : State) : (setrefWork r s).pending = s.pending := by
  unfold setrefWork
  split <;> simp

theorem installWork_pending (e : DirEntry) (s : State) : (installWork e s).pending = s.pending := by
  unfold installWork
  split
  · rfl
  · split
    · rfl
    · split
      · rfl
      · split <;> rfl

theorem removeWork_pending (r : Venue × Bool × Code) (s : State) : (removeWork r s).pending = s.pending := by
  unfold removeWork
  split <;> rfl

theorem State.scanStep_pending (s : State) : s.scanStep.pending = s.pending := by
  have hvisit : ∀ slot, (s.visit slot).pending = s.pending := by
    intro slot
    unfold State.visit
    dsimp only
    split
    · rfl
    · split <;> simp
  unfold State.scanStep
  split
  · exact hvisit _
  · rfl

/-! ### Quote Intake -/

@[simp] theorem State.offerPrint_pending (slot : Slot) (tape : Bool) (items : TickItems) (s : State) :
    (s.offerPrint slot tape items).pending = s.pending := by
  unfold State.offerPrint
  split
  · split <;> rfl
  · rfl

@[simp] theorem State.applyAndPrint_pending (slot : Slot) (tape : Bool) (it : TickItems) (s : State) :
    (s.applyAndPrint slot tape it).pending = s.pending := by
  simp [State.applyAndPrint, State.applyTick]

theorem tickWork_pending (r : TickReq) (s : State) : (tickWork r s).pending = s.pending := by
  have hhit : ∀ (slot : Slot) (u : State), (u.disposeHit slot r).pending = u.pending := by
    intro slot u
    unfold State.disposeHit
    split
    · exact u.applyAndPrint_pending _ _ _
    · split <;> rfl
  unfold tickWork
  dsimp only
  split
  · rw [hhit, State.reloadFeed_pending]
  · exact s.reloadFeed_pending

theorem watchWork_pending (period : Nat) (s : State) : (watchWork period s).pending = s.pending := by
  unfold watchWork
  split <;> simp

theorem releaseEntries_pending (l : List Staged) (applied : Nat) (s : State) :
    (releaseEntries l applied s).2.pending = s.pending := by
  induction l generalizing applied s with
  | nil => rfl
  | cons e l ih =>
    unfold releaseEntries
    split
    · exact ih _ _
    · rw [ih, State.applyAndPrint_pending]

theorem continueRelease_pending (n dealt applied : Nat) (s : State) :
    (continueRelease n dealt applied s).pending = s.pending := by
  unfold continueRelease
  split
  · exact s.settled_pending
  · dsimp only
    split <;> exact releaseEntries_pending _ _ _

theorem execRelease_keepsWaiting (n : Nat) (s : State) : s.KeepsWaiting (execRelease n s) := by
  unfold execRelease
  split
  · exact State.keepsWaiting_next (continueRelease_pending _ _ _ s)
  · exact request_keepsWaiting (fun _ u => continueRelease_pending n 0 0 u) _ _ s
  · exact request_keepsWaiting (fun _ u => continueRelease_pending n 0 0 u) _ _ s
  · exact State.keepsWaiting_next s.settled_pending

/-! ### The Field Map -/

@[simp] theorem State.setUnpainted_pending (k : BandIx) (s : State) (i : EntryIx) :
    (s.setUnpainted k i).pending = s.pending := by
  unfold State.setUnpainted
  split <;> rfl

@[simp] theorem State.clearUnpainted_pending (i : EntryIx) (s : State) (k : BandIx) :
    (s.clearUnpainted i k).pending = s.pending := by
  unfold State.clearUnpainted
  split <;> rfl

@[simp] theorem State.clearMarksFor_pending (k : BandIx) (s : State) : (s.clearMarksFor k).pending = s.pending := rfl

@[simp] theorem State.sweepBand_pending (k : BandIx) (s : State) : (s.sweepBand k).pending = s.pending := by
  rw [State.sweepBand_eq]
  rfl

@[simp] theorem State.refreshBand_pending (k : BandIx) (s : State) : (s.refreshBand k).pending = s.pending := by
  rw [State.refreshBand, State.sweepBand_pending, State.modifyBand_pending]

@[simp] theorem State.freeEntry_pending (s : State) (i : EntryIx) : (s.freeEntry i).pending = s.pending := by
  rw [State.freeEntry_eq]

@[simp] theorem State.eraseEntry_pending (i : EntryIx) (s : State) : (s.eraseEntry i).pending = s.pending := by
  rw [State.eraseEntry_eq]
  rfl

theorem State.holdCurtain_pending (i : EntryIx) (s : State) (k : BandIx) : (s.holdCurtain i k).pending = s.pending := by
  unfold State.holdCurtain
  split <;> simp

@[simp] theorem State.placeEntry_pending (i : EntryIx) (f : Field) (s : State) : (s.placeEntry i f).pending = s.pending := by
  rw [State.placeEntry, State.markEntry_pending, State.foldl_pending (State.holdCurtain_pending i)]

theorem mapWork_pending (f : Field) (s : State) : (mapWork f s).pending = s.pending := by
  unfold mapWork
  split
  · rfl
  · split
    · rfl
    · split <;> simp

theorem unmapWork_pending (i : EntryIx) (s : State) : (unmapWork i s).pending = s.pending := by
  unfold unmapWork
  split
  · split <;> simp
  · rfl

theorem mflushWork_pending (g : FieldGroup) (s : State) : (mflushWork g s).pending = s.pending := by
  simp only [mflushWork, State.ack_pending, State.updateWork_pending]
  rw [State.foldl_pending (fun t k => t.refreshBand_pending k), State.foldl_pending State.freeEntry_pending]

theorem settextWork_pending (r : EntryIx × List Byte) (s : State) : (settextWork r s).pending = s.pending := by
  unfold settextWork
  split <;> simp

/-! ### The Band Table and the Tape Unit -/

@[simp] theorem State.leaveTape_pending (shown : Shows) (s : State) : (s.leaveTape shown).pending = s.pending := by
  unfold State.leaveTape
  split <;> rfl

@[simp] theorem State.settleBand_pending (k : BandIx) (height : Nat) (shown : Shows) (s : State) :
    (s.settleBand k height shown).pending = s.pending := by
  unfold State.settleBand State.freeBand
  split
  · simp
  · split <;> simp

theorem bandWork_pending (r : BandReq) (s : State) : (bandWork r s).pending = s.pending := by
  unfold bandWork
  split
  · rfl
  · split <;> simp

@[simp] theorem State.stealBoard_pending (k : BandIx) (target : Shows) (s : State) :
    (s.stealBoard k target).pending = s.pending := by
  have hsteal : ∀ (t : State) (j : BandIx), (t.stealFrom k target j).pending = t.pending := by
    intro t j
    unfold State.stealFrom
    split <;> rfl
  cases target with
  | board board => exact State.foldl_pending hsteal allBands s
  | nothing | tape => rfl

@[simp] theorem State.leaveBoard_pending (k : BandIx) (s : State) : (s.leaveBoard k).pending = s.pending := by
  unfold State.leaveBoard
  split <;> rfl

@[simp] theorem State.takeTarget_pending (k : BandIx) (target : Shows) (s : State) :
    (s.takeTarget k target).pending = s.pending := by
  unfold State.takeTarget
  split
  · simp
  · rfl
  · split <;> rfl

theorem showWork_pending (r : BandIx × Shows) (s : State) : (showWork r s).pending = s.pending := by
  unfold showWork
  split
  · rfl
  · split <;> simp

theorem tapetextWork_pending (text : List Byte) (s : State) : (tapetextWork text s).pending = s.pending := by
  unfold tapetextWork
  split
  · rfl
  · split <;> rfl

/-! ### The Painter and the Raster -/

theorem State.clearStep_pending (k : BandIx) (s : State) : (s.clearStep k).pending = s.pending := by
  have hclear : (s.clearBand k).pending = s.pending := by
    unfold State.clearBand
    dsimp only
    split <;> simp
  unfold State.clearStep
  split
  · split
    · exact hclear
    · rfl
  · rfl
  · rfl
  · rfl

theorem State.writeInto_pending (i : EntryIx) (chars : List (Byte × AttrIx)) (s : State) (k : BandIx) :
    (s.writeInto i chars k).pending = s.pending := by
  unfold State.writeInto
  dsimp only
  split <;> simp

theorem State.eraseFrom_pending (f : Field) (s : State) (k : BandIx) : (s.eraseFrom f k).pending = s.pending := by
  unfold State.eraseFrom
  split <;> rfl

theorem State.dealWith_pending (i : EntryIx) (s : State) : (s.dealWith i).1.pending = s.pending := by
  unfold State.dealWith
  dsimp only
  split
  · exact State.foldl_pending (State.writeInto_pending i _) allBands s
  · rfl
  · exact State.foldl_pending (State.eraseFrom_pending _) allBands s
  · rfl
  · rfl

theorem State.takeOne_pending (budget counted : Nat) (s : State) : (s.takeOne budget counted).pending = s.pending := by
  unfold State.takeOne State.takeEntry
  split
  · rfl
  · split
    · rfl
    · exact State.dealWith_pending _ (s.unqueue _ _)

theorem execTaking_keepsWaiting (s : State) : s.KeepsWaiting (execTaking s) := by
  unfold execTaking
  split
  · split
    · exact State.keepsWaiting_next (s.takeOne_pending _ _)
    · exact s.keepsWaiting_self
  · exact State.keepsWaiting_next (s.takeOne_pending _ _)
  · exact s.keepsWaiting_self
  · exact s.keepsWaiting_self

theorem State.releaseStep_pending (k : BandIx) (s : State) : (s.releaseStep k).pending = s.pending := by
  unfold State.releaseStep
  split
  · split <;> rfl
  · rfl

theorem State.startFrame_pending (s : State) : s.startFrame.pending = s.pending := by
  unfold State.startFrame
  split
  · split <;> rfl
  · rfl

theorem State.readFrame_pending (s : State) : s.readFrame.pending = s.pending := by
  unfold State.readFrame
  split <;> rfl

/-! ### The Link Interface -/

theorem execResetNReleased_keepsWaiting (rate1 rate0 : Bool) (s : State) :
    s.KeepsWaiting (execResetNReleased rate1 rate0 s) := by
  unfold execResetNReleased
  split <;> exact State.keepsWaiting_next rfl

theorem execInitialisationEnd_keepsWaiting (s : State) : s.KeepsWaiting (execInitialisationEnd s) := by
  unfold execInitialisationEnd
  split <;> exact State.keepsWaiting_next rfl

theorem execRxdCharacter_keepsWaiting (byte : Byte) (stopHigh : Bool) (s : State) :
    s.KeepsWaiting (execRxdCharacter byte stopHigh s) := by
  unfold execRxdCharacter
  split <;> exact State.keepsWaiting_next rfl

theorem execFrameGapTimeout_keepsWaiting (s : State) : s.KeepsWaiting (execFrameGapTimeout s) := by
  unfold execFrameGapTimeout
  split <;> exact State.keepsWaiting_next rfl

theorem execBadFrameAdmission_keepsWaiting (s : State) : s.KeepsWaiting (execBadFrameAdmission s) := by
  unfold execBadFrameAdmission
  split
  · exact State.keepsWaiting_next (State.admissionMade_pending _)
  · exact s.keepsWaiting_self

theorem execOverrunAdmission_keepsWaiting (s : State) : s.KeepsWaiting (execOverrunAdmission s) := by
  unfold execOverrunAdmission
  split
  · exact State.keepsWaiting_next (State.admissionMade_pending _)
  · exact s.keepsWaiting_self

theorem execFeedNotice_keepsWaiting (s : State) : s.KeepsWaiting (execFeedNotice s) := by
  unfold execFeedNotice
  split
  · exact State.keepsWaiting_next (State.admissionMade_pending _)
  · exact s.keepsWaiting_self

theorem execMissNotice_keepsWaiting (s : State) : s.KeepsWaiting (execMissNotice s) := by
  unfold execMissNotice
  split
  · exact State.keepsWaiting_next (State.admissionMade_pending _)
  · exact s.keepsWaiting_self

theorem execUnknownKind_keepsWaiting (s : State) : s.KeepsWaiting (execUnknownKind s) := by
  unfold execUnknownKind
  split
  · split <;> exact State.keepsWaiting_next s.ready_pending
  · exact State.keepsWaiting_next s.ready_pending

theorem continueStatus_pending (n done : Nat) (r : StatusReply) (s : State) :
    (continueStatus n done r s).pending = s.pending := by
  rw [continueStatus_eq]
  split <;> rfl

theorem execStatus_keepsWaiting (n : Nat) (s : State) : s.KeepsWaiting (execStatus n s) := by
  unfold execStatus
  split
  · exact State.keepsWaiting_next ((continueStatus_pending _ _ _ _).trans s.settled_pending)
  · exact request_keepsWaiting (fun _ u => continueStatus_pending n 0 _ u) _ _ s
  · exact request_keepsWaiting (fun _ u => continueStatus_pending n 0 _ u) _ _ s
  · exact State.keepsWaiting_next s.settled_pending

/-! ### Every command -/

/-- Every command answers a next state in which the same commands wait. -/
theorem exec_keepsWaiting (c : Instr) (s : State) : s.KeepsWaiting (exec c s) := by
  cases c with
  | resetNAsserted => exact State.keepsWaiting_next rfl
  | resetNReleased rate1 rate0 => exact execResetNReleased_keepsWaiting rate1 rate0 s
  | initialisationEnd => exact execInitialisationEnd_keepsWaiting s
  | rxdCharacter byte stopHigh => exact execRxdCharacter_keepsWaiting byte stopHigh s
  | frameGapTimeout => exact execFrameGapTimeout_keepsWaiting s
  | recordSent => exact State.keepsWaiting_next rfl
  | badFrameAdmission => exact execBadFrameAdmission_keepsWaiting s
  | overrunAdmission => exact execOverrunAdmission_keepsWaiting s
  | feedNotice => exact execFeedNotice_keepsWaiting s
  | missNotice => exact execMissNotice_keepsWaiting s
  | unknownKind => exact execUnknownKind_keepsWaiting s
  | status n => exact execStatus_keepsWaiting n s
  | define => exact request_keepsWaiting (fun _ _ => by simp [defineWork]) _ _ s
  | clear => exact request_keepsWaiting clearWork_pending _ _ s
  | halt => exact request_keepsWaiting (tradingWork_pending _ _) _ _ s
  | resume => exact request_keepsWaiting (tradingWork_pending _ _) _ _ s
  | setref => exact request_keepsWaiting setrefWork_pending _ _ s
  | openDay => exact request_keepsWaiting (fun _ _ => by simp [openDayWork]) _ _ s
  | install => exact request_keepsWaiting installWork_pending _ _ s
  | remove => exact request_keepsWaiting removeWork_pending _ _ s
  | tick => exact request_keepsWaiting tickWork_pending _ _ s
  | release n => exact execRelease_keepsWaiting n s
  | heartbeat => exact request_keepsWaiting (by exact fun _ u => u.reloadFeed_pending) _ _ s
  | watch => exact request_keepsWaiting watchWork_pending _ _ s
  | feedWatchExpiry => exact State.keepsWaiting_next (by simp)
  | heatScanStep => exact State.keepsWaiting_next (s.settled.scanStep_pending.trans s.settled_pending)
  | map => exact request_keepsWaiting mapWork_pending _ _ s
  | unmap => exact request_keepsWaiting unmapWork_pending _ _ s
  | mflush => exact request_keepsWaiting mflushWork_pending _ _ s
  | settext => exact request_keepsWaiting settextWork_pending _ _ s
  | setpal => exact request_keepsWaiting (fun _ _ => by simp [setpalWork]) _ _ s
  | band => exact request_keepsWaiting bandWork_pending _ _ s
  | showBand => exact request_keepsWaiting showWork_pending _ _ s
  | tapetext => exact request_keepsWaiting tapetextWork_pending _ _ s
  | frameStart => exact State.keepsWaiting_next (s.settled.startFrame_pending.trans s.settled_pending)
  | bandClear k => exact State.keepsWaiting_next ((s.settled.clearStep_pending k).trans s.settled_pending)
  | taking => exact execTaking_keepsWaiting s
  | curtainRelease k => exact State.keepsWaiting_next ((s.settled.releaseStep_pending k).trans s.settled_pending)
  | rasterReading => exact State.keepsWaiting_next (s.settled.readFrame_pending.trans s.settled_pending)
  | reset | query | dflush | dprobe | mpurge | discard | mprobe | mfind | setattr | heatcfg | blink | paint | tapespeed =>
    exact request_keepsWaiting (by exact fun _ _ => rfl) _ _ s

end Sys2Proof.Machine

open Sys2Proof Sys2Proof.Machine

/-- Settles O1: the two cases of the queue. -/
theorem stepRunsFrontCommand : Obligations.StepRunsFrontCommand :=
  ⟨fun _ _ _ h => step_of_cons h, fun _ h => step_of_nil h⟩

/-- Settles O2: each command by its own lemma, the requests by the one about their shared step. -/
theorem everyCommandAnswersNext : Obligations.EveryCommandAnswersNext := exec_keepsWaiting
end
